-- ==== Sys2Proof/Word.lean ====
section
/-! DEFINITION. The words of the block: a 4-bit digit, an 8-bit frame byte, the 24-bit flat words, and the
names by which the spec points at one input bit or one frame bit.

Digit bits are numbered from 1 (R8) and frame bits from 0 (R9); conflict C7 says not to normalise the two to one
base, so a digit bit is a name `bit1` … `bit4` and a frame bit is a number 0 to 7. -/

namespace Sys2Proof

/-- A digit value at an input port: 4 bits, unsigned (R15, decision D2). -/
abbrev Digit := BitVec 4

/-- One byte of a frame: 8 bits, bit 0 least significant (R9, R26). -/
abbrev Byte := BitVec 8

/-- A flat 24-bit word: the packed operand word `DS[23:0]` (R43) or the flat frame word `F[23:0]` (R46). -/
abbrev Word24 := BitVec 24

/-- The block's whole input, six unsigned digit values in the order of TD §3 (R12, R15, R41). -/
structure DigitSet where
  /-- low-seconds-digit -/
  d1 : Digit
  /-- high-seconds-digit -/
  d2 : Digit
  /-- low-minutes-digit -/
  d3 : Digit
  /-- high-minutes-digit -/
  d4 : Digit
  /-- low-hours-digit -/
  d5 : Digit
  /-- high-hours-digit -/
  d6 : Digit
  deriving DecidableEq, Repr

/-- A frame, `P` or `W`: exactly three separate bytes, never combined into a number by the block (R26, R28). -/
structure Frame where
  /-- byte0 -/
  b0 : Byte
  /-- byte1 -/
  b1 : Byte
  /-- byte2 -/
  b2 : Byte
  deriving DecidableEq, Repr

/-- The six digit inputs (R7, NDIGITS). -/
inductive DigitName where
  | d1 | d2 | d3 | d4 | d5 | d6
  deriving DecidableEq, Repr

/-- The four bits of a digit, numbered from 1: `bit1` is the least significant (R8). -/
inductive DigitBit where
  | bit1 | bit2 | bit3 | bit4
  deriving DecidableEq, Repr

/-- The three bytes of a frame by index (R10, R26). -/
inductive FrameByte where
  | byte0 | byte1 | byte2
  deriving DecidableEq, Repr

/-- One of the 24 input bits, written `dj.bitN` by the spec. -/
structure InputBit where
  digit : DigitName
  bit : DigitBit
  deriving DecidableEq, Repr

/-- One of the 24 frame positions, written `bytei.bitK` by the spec; `bit` is counted from 0 (R9). -/
structure FramePos where
  byte : FrameByte
  bit : Fin 8
  deriving DecidableEq, Repr

/-- One line of the wiring table, "byte.bit ← digit.bcdbit" (R45). -/
structure WireEntry where
  dst : FramePos
  src : InputBit
  deriving DecidableEq, Repr

end Sys2Proof
end

