-- ==== Sys2Proof/Syntax.lean ====
section
/-! DEFINITION. The operations of the block as syntax: one constructor of `Instr` per row of spec/opcode_table.json,
each carrying the operand fields the row has, and the two pseudo-operations of R54.

The block has exactly one operation, ENCODE; WIRE, INVERT and WIRE.D1 to WIRE.D6 are its stages and their parts,
listed so that each has a row and a rule, and cannot be invoked from outside (R40, decision D10). -/

namespace Sys2Proof

/-- The nine rows of spec/opcode_table.json. -/
inductive Instr where
  /-- `ENCODE` (R68): the operation of the block; operand format DS. -/
  | encode (d : DigitSet)
  /-- `WIRE` (R62): stage 1; operand format DS. -/
  | wire (d : DigitSet)
  /-- `WIRE.D1` (R56): the wiring of d1. -/
  | wireD1 (d : Digit)
  /-- `WIRE.D2` (R57): the wiring of d2. -/
  | wireD2 (d : Digit)
  /-- `WIRE.D3` (R58): the wiring of d3. -/
  | wireD3 (d : Digit)
  /-- `WIRE.D4` (R59): the wiring of d4. -/
  | wireD4 (d : Digit)
  /-- `WIRE.D5` (R60): the wiring of d5. -/
  | wireD5 (d : Digit)
  /-- `WIRE.D6` (R61): the wiring of d6. -/
  | wireD6 (d : Digit)
  /-- `INVERT` (R67): stage 2; its operand is the pre-inversion frame, format PF. -/
  | invert (p : Frame)
  deriving DecidableEq, Repr

/-- The name of a row of spec/opcode_table.json, without its operands. -/
inductive Row where
  | encode | wire | wireD1 | wireD2 | wireD3 | wireD4 | wireD5 | wireD6 | invert
  deriving DecidableEq, Repr

/-- The row an instruction belongs to. -/
def Instr.row : Instr → Row
  | .encode _ => .encode
  | .wire _ => .wire
  | .wireD1 _ => .wireD1
  | .wireD2 _ => .wireD2
  | .wireD3 _ => .wireD3
  | .wireD4 _ => .wireD4
  | .wireD5 _ => .wireD5
  | .wireD6 _ => .wireD6
  | .invert _ => .invert

/-- The pseudo-operations of R54, which expand to ENCODE (Machine/Caller.lean). -/
inductive Pseudo where
  /-- `TIME hh, mm, ss`. -/
  | time (hh mm ss : Nat)
  /-- `BLANK b`. -/
  | blank (b : Digit)
  deriving DecidableEq, Repr

end Sys2Proof
end

