-- ==== Sys2Proof/Decode.lean ====
section
/-! DEFINITION. The packed operand word and its decoding, then the encoder.

`DS = d6<<20 | d5<<16 | d4<<12 | d3<<8 | d2<<4 | d1` (R43) and `F = byte2<<16 | byte1<<8 | byte0` (R46) are the
spec's notation for tables, vectors and opcode_table.json (decision D9), not a wire format; as bytes, the model lays
a word out least significant byte first (log 8). No field selects the operation: every operand word selects ENCODE
(R40), none is reserved or illegal (R53). -/

namespace Sys2Proof

/-- R43, read: the six 4-bit fields of a packed operand word. -/
def unpack (w : Word24) : DigitSet where
  d1 := w.extractLsb' 0 4
  d2 := w.extractLsb' 4 4
  d3 := w.extractLsb' 8 4
  d4 := w.extractLsb' 12 4
  d5 := w.extractLsb' 16 4
  d6 := w.extractLsb' 20 4

/-- R43, written: the packed operand word of a DigitSet. -/
def pack (d : DigitSet) : Word24 :=
  d.d6.setWidth 24 <<< 20 ||| d.d5.setWidth 24 <<< 16 ||| d.d4.setWidth 24 <<< 12 |||
    d.d3.setWidth 24 <<< 8 ||| d.d2.setWidth 24 <<< 4 ||| d.d1.setWidth 24

/-- R46, read: the three bytes of a flat frame word. -/
def frameOfFlat (f : Word24) : Frame where
  b0 := f.extractLsb' 0 8
  b1 := f.extractLsb' 8 8
  b2 := f.extractLsb' 16 8

/-- R46, written: the flat frame word of a frame. -/
def Frame.flat (p : Frame) : Word24 :=
  p.b2.setWidth 24 <<< 16 ||| p.b1.setWidth 24 <<< 8 ||| p.b0.setWidth 24

/-- The instruction a row's operand word stands for: the row's fields as spec/opcode_table.json places them. A bit
outside the row's fields ('-' in the table's encoding) is not read. -/
def decodeRow (r : Row) (w : Word24) : Instr :=
  match r with
  | .encode => .encode (unpack w)
  | .wire => .wire (unpack w)
  | .wireD1 => .wireD1 (w.extractLsb' 0 4)
  | .wireD2 => .wireD2 (w.extractLsb' 4 4)
  | .wireD3 => .wireD3 (w.extractLsb' 8 4)
  | .wireD4 => .wireD4 (w.extractLsb' 12 4)
  | .wireD5 => .wireD5 (w.extractLsb' 16 4)
  | .wireD6 => .wireD6 (w.extractLsb' 20 4)
  | .invert => .invert (frameOfFlat w)

/-- The instruction an operand word selects from outside the block: ENCODE, for every word (R40, R53; log 5). -/
def decodeWord (w : Word24) : Instr := decodeRow .encode w

/-- Why a byte sequence is no instruction. -/
inductive DecodeError where
  /-- Fewer than the three bytes of one operand word were given (log 9). Raised by `decode` only; `step` always
  has a whole word, so it never meets this. Safe: nothing runs. -/
  | incompleteOperandWord
  deriving DecidableEq, Repr

/-- The operand word of three bytes, least significant first (log 8). -/
def wordOfBytes (b0 b1 b2 : Byte) : Word24 :=
  b2.setWidth 24 <<< 16 ||| b1.setWidth 24 <<< 8 ||| b0.setWidth 24

/-- Decoding, total on any bytes: the instruction of the first three bytes and the bytes after them. There is one
length and no prefix (R53). -/
def decode : List Byte → Except DecodeError (Instr × List Byte)
  | b0 :: b1 :: b2 :: rest => .ok (decodeWord (wordOfBytes b0 b1 b2), rest)
  | _ => .error .incompleteOperandWord

/-- The operand word of an instruction, laid out as its row of spec/opcode_table.json says; bits the row does not
read are 0. -/
def encode : Instr → Word24
  | .encode d => pack d
  | .wire d => pack d
  | .wireD1 d => d.setWidth 24
  | .wireD2 d => d.setWidth 24 <<< 4
  | .wireD3 d => d.setWidth 24 <<< 8
  | .wireD4 d => d.setWidth 24 <<< 12
  | .wireD5 d => d.setWidth 24 <<< 16
  | .wireD6 d => d.setWidth 24 <<< 20
  | .invert p => p.flat

/-- The three bytes of a word, least significant first (log 8). -/
def bytesOfWord (w : Word24) : List Byte :=
  [w.extractLsb' 0 8, w.extractLsb' 8 8, w.extractLsb' 16 8]

/-- The bytes of an instruction's operand word. -/
def encodeBytes (i : Instr) : List Byte := bytesOfWord (encode i)

/-- `n` bytes of a number, least significant first. -/
def bytesOfNat (w : Nat) : Nat → List Byte
  | 0 => []
  | n + 1 => BitVec.ofNat 8 w :: bytesOfNat (w / 256) n

/-- The instruction the decoder reads from an instruction whose bits are `w`, `nbits` of them, every bit above
`nbits` being 0. The longest instruction is 24 bits, so a longer one is refused. -/
def decodeTableWord (nbits w : Nat) : Option Instr :=
  match decode (bytesOfNat (w % 2 ^ nbits) (max 3 ((nbits + 7) / 8))) with
  | .ok (i, []) => some i
  | _ => none

end Sys2Proof
end

