-- ==== Sys2Proof/Machine/Operands.lean ====
section
/-! DEFINITION. The operands: the digits of a DigitSet and how the block reads their bits.

"The block reads a digit only through four tests" (R44); no other property of a digit reaches the output. -/

namespace Sys2Proof.Machine

/-- The test mask of a digit bit: 1, 2, 4, 8 (R8). -/
def bitMask : DigitBit → Digit
  | .bit1 => 1
  | .bit2 => 2
  | .bit3 => 4
  | .bit4 => 8

/-- `dj.bitN = (d[j] & mask) != 0` (R44). -/
def testBit (d : Digit) (n : DigitBit) : Bool := (d &&& bitMask n) != 0

/-- `d[j]`, the value of digit input dj (R11). -/
def digitOf (d : DigitSet) : DigitName → Digit
  | .d1 => d.d1
  | .d2 => d.d2
  | .d3 => d.d3
  | .d4 => d.d4
  | .d5 => d.d5
  | .d6 => d.d6

/-- The value of one of the 24 input bits. -/
def inputBit (d : DigitSet) (b : InputBit) : Bool := testBit (digitOf d b.digit) b.bit

/-- The number N of a digit bit, counted from 1 (R8). -/
def bitNumber : DigitBit → Nat
  | .bit1 => 1
  | .bit2 => 2
  | .bit3 => 3
  | .bit4 => 4

/-- The number j of a digit, counted from 1 (R12). -/
def digitNumber : DigitName → Nat
  | .d1 => 1
  | .d2 => 2
  | .d3 => 3
  | .d4 => 4
  | .d5 => 5
  | .d6 => 6

/-- The flat source index of an input bit, `s = 4*(j-1) + (N-1)` (R47). -/
def dsIndex (b : InputBit) : Nat := 4 * (digitNumber b.digit - 1) + (bitNumber b.bit - 1)

/-- The four input bits with no frame position (R16, R41). -/
def unconnectedInputs : List InputBit :=
  [⟨.d2, .bit4⟩, ⟨.d4, .bit4⟩, ⟨.d6, .bit3⟩, ⟨.d6, .bit4⟩]

/-- A DigitSet with its four unconnected bits cleared (R50): what of a DigitSet reaches the output. -/
def connectedPart (d : DigitSet) : DigitSet :=
  { d with d2 := d.d2 &&& 7, d4 := d.d4 &&& 7, d6 := d.d6 &&& 3 }

/-- An in-range DigitSet (R42). It is the caller's contract; the block does not check it (R51). -/
def inRange (d : DigitSet) : Bool :=
  decide (d.d1.toNat ≤ 15) && decide (d.d2.toNat ≤ 7) && decide (d.d3.toNat ≤ 15) &&
    decide (d.d4.toNat ≤ 7) && decide (d.d5.toNat ≤ 15) && decide (d.d6.toNat ≤ 3)

/-- The caller's stronger invariant: the digits come from a valid time of day (R42, R85). -/
def timeDigitsInvariant (d : DigitSet) : Bool :=
  decide (d.d1.toNat ≤ 9) && decide (d.d2.toNat ≤ 5) && decide (d.d3.toNat ≤ 9) && decide (d.d4.toNat ≤ 5) &&
    decide (d.d5.toNat ≤ 9) && decide (d.d6.toNat ≤ 2) && (d.d6 != 2 || decide (d.d5.toNat ≤ 3))

/-- The value a port takes from a caller's integer of any width: its low four bits (R52). -/
def digitOfCaller (n : Nat) : Digit := BitVec.ofNat 4 n

/-- The DigitSet six caller's integers present, d1 first (R52, R54). -/
def digitsOfCaller (n1 n2 n3 n4 n5 n6 : Nat) : DigitSet :=
  ⟨digitOfCaller n1, digitOfCaller n2, digitOfCaller n3, digitOfCaller n4, digitOfCaller n5, digitOfCaller n6⟩

end Sys2Proof.Machine
end

