-- ==== Sys2Proof/Machine/State.lean ====
section
/-! DEFINITION. The state, the reasons a step can stop, and the state after reset.

The block is combinational and holds nothing between evaluations (R13, R22): its part of State, `Block`, has no field,
and `P` and `W` are functions of the inputs (Machine/Encode.lean). The host's step takes no input and answers only a
state, so what the caller passes in and what its call gives it stand beside the block, in `Caller` (log 1, log 2).
Nothing else exists: no register, program counter, flag, control register, memory, saved state, mode or pending bit
(R14, R19 to R22, R25, R79, R81 to R84), and of the environment nothing but the caller's side of a call (R23). -/

namespace Sys2Proof.Machine

/-- The block's own state: no field (R13, R14, R19 to R23). -/
structure Block where
  deriving DecidableEq, Repr

/-- How far the caller's latest call of the block has come (log 2). -/
inductive Call where
  /-- No call has been made: no WireFrame exists yet (R92). -/
  | notCalled
  /-- Inside stage WIRE: the working buffer built so far (R17). Only a stage run on its own leaves a call here; a whole
  evaluation never does (R40; log 6). -/
  | wiring (p : Frame)
  /-- The call has returned this WireFrame, "immutable once produced" (R18). -/
  | returned (w : Frame)
  deriving DecidableEq, Repr

/-- The caller's side of the interface. It is environment, not the block's state (R23). -/
structure Caller where
  /-- The DigitSet the caller drives on the ports d1..d6 (R15, R23). No row writes it (R16). -/
  drives : DigitSet
  /-- What its latest call has given it. -/
  call : Call
  deriving DecidableEq, Repr

/-- What the host's step carries: the block, which holds nothing, and the caller beside it. -/
structure State where
  block : Block
  caller : Caller
  deriving DecidableEq, Repr

/-- The faults of the block: none. "The list of exception causes of the block is empty" (R77; log 15). -/
inductive Fault where
  deriving DecidableEq, Repr

/-- The reasons a meaning could be missing. -/
inductive Refusal where
  /-- An instruction whose arm in `exec` has no meaning yet. Raised by no arm of this model: every row has its
  meaning. Safe: nothing runs. -/
  | notModelled (mnemonic : String)
  deriving DecidableEq, Repr

/-- The state after reset. The block has no reset (R91) and nothing to reset (R24). No call has been made (R92). That
the caller drives zeros is a DESIGN CHOICE (log 3); `W` is then `0xFF 0xFF 0xFF`, as R24 says. -/
def State.reset : State where
  block := ⟨⟩
  caller := { drives := ⟨0, 0, 0, 0, 0, 0⟩, call := .notCalled }

end Sys2Proof.Machine
end

