-- ==== Sys2Proof/Machine/Ops.lean ====
section
/-! DEFINITION. The shared operations: reading and setting bits of a frame, the guarded setting of one frame bit
from one digit bit, the complement, and the ports and the call of a state.

The block takes no exception and returns from none (R77, R81, R82), so there is no such operation here; it has no
memory (R25), so there is no access operation either. -/

namespace Sys2Proof.Machine

/-- The start value of the working buffer at every evaluation (R55). -/
def zeroFrame : Frame := ⟨0x00, 0x00, 0x00⟩

/-- `P[i]`. -/
def frameByte (p : Frame) : FrameByte → Byte
  | .byte0 => p.b0
  | .byte1 => p.b1
  | .byte2 => p.b2

/-- `P` with byte `i` replaced. -/
def putByte (p : Frame) (i : FrameByte) (v : Byte) : Frame :=
  match i with
  | .byte0 => { p with b0 := v }
  | .byte1 => { p with b1 := v }
  | .byte2 => { p with b2 := v }

/-- `setbit(P, i, k)`: `P[i] <- P[i] | (1 << k)` (R11). -/
def setBit (p : Frame) (i : FrameByte) (k : Fin 8) : Frame :=
  putByte p i (frameByte p i ||| (1 : Byte) <<< k.val)

/-- `bytei.bitK` of a frame: the bit of weight `2^K` (R9). -/
def frameBit (p : Frame) (t : FramePos) : Bool := (frameByte p t.byte).getLsbD t.bit.val

/-- `if d & mask then setbit(P, i, k)`: one line of a per-digit rule (R56 to R61). It only ever sets a bit (R55). -/
def wireBit (d : Digit) (n : DigitBit) (i : FrameByte) (k : Fin 8) (p : Frame) : Frame :=
  if testBit d n then setBit p i k else p

/-- The complement of all three bytes, unused positions included: `W[i] <- (~P[i]) & 0xFF` (R67). -/
def invertFrame (p : Frame) : Frame := ⟨~~~p.b0, ~~~p.b1, ~~~p.b2⟩

/-- The index of a byte in a frame (R26). -/
def byteIndex : FrameByte → Nat
  | .byte0 => 0
  | .byte1 => 1
  | .byte2 => 2

/-- The flat index of a frame position, `t = 8*i + k` (R46, R47). -/
def frameIndex (t : FramePos) : Nat := 8 * byteIndex t.byte + t.bit.val

/-- The four frame positions with no source (R49). -/
def unusedPositions : List FramePos := [⟨.byte0, 0⟩, ⟨.byte1, 0⟩, ⟨.byte2, 0⟩, ⟨.byte2, 7⟩]

/-- Bytewise OR of two frames (R64, R65). -/
def orFrame (a b : Frame) : Frame := ⟨a.b0 ||| b.b0, a.b1 ||| b.b1, a.b2 ||| b.b2⟩

/-- Bytewise AND of two frames (R64, R65). -/
def andFrame (a b : Frame) : Frame := ⟨a.b0 &&& b.b0, a.b1 &&& b.b1, a.b2 &&& b.b2⟩

/-- Bytewise XOR of two frames (R64, R65). -/
def xorFrame (a b : Frame) : Frame := ⟨a.b0 ^^^ b.b0, a.b1 ^^^ b.b1, a.b2 ^^^ b.b2⟩

/-- Bytewise sum of two frames (R64). -/
def addFrame (a b : Frame) : Frame := ⟨a.b0 + b.b0, a.b1 + b.b1, a.b2 + b.b2⟩

/-- How many of the low `n` bits of a word are 1 (R65, R74). -/
def onesBelow (w : Word24) : Nat → Nat
  | 0 => 0
  | n + 1 => (w.getLsbD n).toNat + onesBelow w n

/-- The number of 1 bits of a 24-bit word (R65, R74). -/
def onesCount (w : Word24) : Nat := onesBelow w 24

/-- The values at the input ports d1..d6: those the caller drives (R15, R23). -/
def State.ports (s : State) : DigitSet := s.caller.drives

/-- The working buffer an operation starts from: what the stage before it in the same call built, and all zero where
no call is in progress, since nothing of a previous evaluation remains (R17, R55). -/
def State.buffer (s : State) : Frame :=
  match s.caller.call with
  | .wiring p => p
  | .notCalled => zeroFrame
  | .returned _ => zeroFrame

/-- The WireFrame the latest call has returned, if it has (R18, R92). -/
def State.returned (s : State) : Option Frame :=
  match s.caller.call with
  | .returned w => some w
  | .notCalled => none
  | .wiring _ => none

/-- The state whose call has come to `c`: all that an operation changes. -/
def State.withCall (s : State) (c : Call) : State := { s with caller := { s.caller with call := c } }

/-- The operand word on the input ports (R43): what an evaluation takes in place of a fetched instruction. -/
def fetchWord (s : State) : Word24 := pack s.ports

/-- The same word as bytes, as `decode` takes it. -/
def fetchBytes (s : State) : List Byte := bytesOfWord (fetchWord s)

/-- The caller drives a DigitSet on the input ports (R89); a frame already returned stays as it is (R18). The block
itself never drives its ports (R16). -/
def State.present (s : State) (d : DigitSet) : State := { s with caller := { s.caller with drives := d } }

end Sys2Proof.Machine
end

