-- ==== Sys2Proof/Machine/Wire.lean ====
section
/-! DEFINITION. Stage WIRE, the fixed wiring permutation (40_wire.md): one function per digit in the manual's order,
the whole stage, and the meanings of the rows WIRE.D1 to WIRE.D6 and WIRE.

A per-digit row ORs its bits into the working buffer of its call; WIRE starts the buffer at zero and applies the six
(R55, R62). Only ENCODE runs them in the block (R40; log 6). -/

namespace Sys2Proof.Machine

/-- R56: byte2.bit5 ← d1.bit1; byte2.bit6 ← d1.bit2; byte1.bit6 ← d1.bit3; byte2.bit1 ← d1.bit4. -/
def wireD1 (d : Digit) (p : Frame) : Frame :=
  wireBit d .bit4 .byte2 1 (wireBit d .bit3 .byte1 6 (wireBit d .bit2 .byte2 6 (wireBit d .bit1 .byte2 5 p)))

/-- R57: byte2.bit2 ← d2.bit1; byte1.bit7 ← d2.bit2; byte1.bit5 ← d2.bit3; d2.bit4 has no entry. -/
def wireD2 (d : Digit) (p : Frame) : Frame :=
  wireBit d .bit3 .byte1 5 (wireBit d .bit2 .byte1 7 (wireBit d .bit1 .byte2 2 p))

/-- R58: byte2.bit4 ← d3.bit1; byte0.bit4 ← d3.bit2; byte0.bit5 ← d3.bit3; byte0.bit6 ← d3.bit4. -/
def wireD3 (d : Digit) (p : Frame) : Frame :=
  wireBit d .bit4 .byte0 6 (wireBit d .bit3 .byte0 5 (wireBit d .bit2 .byte0 4 (wireBit d .bit1 .byte2 4 p)))

/-- R59: byte0.bit2 ← d4.bit1; byte0.bit1 ← d4.bit2; byte0.bit3 ← d4.bit3; d4.bit4 has no entry. -/
def wireD4 (d : Digit) (p : Frame) : Frame :=
  wireBit d .bit3 .byte0 3 (wireBit d .bit2 .byte0 1 (wireBit d .bit1 .byte0 2 p))

/-- R60: byte2.bit3 ← d5.bit1; byte1.bit2 ← d5.bit2; byte1.bit1 ← d5.bit3; byte0.bit7 ← d5.bit4. -/
def wireD5 (d : Digit) (p : Frame) : Frame :=
  wireBit d .bit4 .byte0 7 (wireBit d .bit3 .byte1 1 (wireBit d .bit2 .byte1 2 (wireBit d .bit1 .byte2 3 p)))

/-- R61: byte1.bit3 ← d6.bit1; byte1.bit4 ← d6.bit2; d6.bit3 and d6.bit4 have no entry. -/
def wireD6 (d : Digit) (p : Frame) : Frame :=
  wireBit d .bit2 .byte1 4 (wireBit d .bit1 .byte1 3 p)

/-- R62, R55: the pre-inversion frame of a DigitSet, from an all-zero working buffer. -/
def wire (d : DigitSet) : Frame :=
  wireD6 d.d6 (wireD5 d.d5 (wireD4 d.d4 (wireD3 d.d3 (wireD2 d.d2 (wireD1 d.d1 zeroFrame)))))

/-- WIRE.D1 (R56). -/
def execWireD1 (d : Digit) (s : State) : Host.Outcome State Fault Refusal :=
  .next (s.withCall (.wiring (wireD1 d s.buffer)))

/-- WIRE.D2 (R57). -/
def execWireD2 (d : Digit) (s : State) : Host.Outcome State Fault Refusal :=
  .next (s.withCall (.wiring (wireD2 d s.buffer)))

/-- WIRE.D3 (R58). -/
def execWireD3 (d : Digit) (s : State) : Host.Outcome State Fault Refusal :=
  .next (s.withCall (.wiring (wireD3 d s.buffer)))

/-- WIRE.D4 (R59). -/
def execWireD4 (d : Digit) (s : State) : Host.Outcome State Fault Refusal :=
  .next (s.withCall (.wiring (wireD4 d s.buffer)))

/-- WIRE.D5 (R60). -/
def execWireD5 (d : Digit) (s : State) : Host.Outcome State Fault Refusal :=
  .next (s.withCall (.wiring (wireD5 d s.buffer)))

/-- WIRE.D6 (R61). -/
def execWireD6 (d : Digit) (s : State) : Host.Outcome State Fault Refusal :=
  .next (s.withCall (.wiring (wireD6 d s.buffer)))

/-- WIRE (R62): `result P`. -/
def execWire (d : DigitSet) (s : State) : Host.Outcome State Fault Refusal := .next (s.withCall (.wiring (wire d)))

end Sys2Proof.Machine
end

