-- ==== Sys2Proof/Machine/Encode.lean ====
section
/-! DEFINITION. Stage INVERT and the operation ENCODE (41_invert_encode.md), and the block's two nets. -/

namespace Sys2Proof.Machine

/-- `ENCODE` as a function (R68): TD's `encode(DigitSet) -> WireFrame`. -/
def encodeFrame (d : DigitSet) : Frame := invertFrame (wire d)

/-- The internal net `P`: at every moment a function of the inputs alone, no storage (R17). -/
def State.p (s : State) : Frame := wire s.ports

/-- The output `W`: at every moment ENCODE of the present inputs (R13, R18, R92). -/
def State.w (s : State) : Frame := encodeFrame s.ports

/-- INVERT (R67): the call returns the complement of the operand frame (log 6). -/
def execInvert (p : Frame) (s : State) : Host.Outcome State Fault Refusal :=
  .next (s.withCall (.returned (invertFrame p)))

/-- ENCODE (R68): `P <- WIRE(d[1..6])`, `W <- INVERT(P)`, `result W`. State written: none; the result is the caller's.
It never faults, traps, blocks or refuses (R70). -/
def execEncode (d : DigitSet) (s : State) : Host.Outcome State Fault Refusal :=
  .next (s.withCall (.returned (encodeFrame d)))

end Sys2Proof.Machine
end

