-- ==== Sys2Proof/Machine/Dispatch.lean ====
section
/-! DEFINITION. One arm per row of spec/opcode_table.json. -/

namespace Sys2Proof.Machine

def exec (i : Instr) (s : State) : Host.Outcome State Fault Refusal :=
  match i with
  | .encode d => Sys2Proof.Machine.execEncode d s
  | .wire d => Sys2Proof.Machine.execWire d s
  | .wireD1 d => Sys2Proof.Machine.execWireD1 d s
  | .wireD2 d => Sys2Proof.Machine.execWireD2 d s
  | .wireD3 d => Sys2Proof.Machine.execWireD3 d s
  | .wireD4 d => Sys2Proof.Machine.execWireD4 d s
  | .wireD5 d => Sys2Proof.Machine.execWireD5 d s
  | .wireD6 d => Sys2Proof.Machine.execWireD6 d s
  | .invert p => Sys2Proof.Machine.execInvert p s

end Sys2Proof.Machine
end

