-- ==== Sys2Proof/Machine/Step.lean ====
section
/-! DEFINITION. One step is one call: one evaluation of the block on the DigitSet at its ports (R13, R40; log 4). -/

namespace Sys2Proof.Machine

/-- One evaluation: the operand word at the ports selects its operation, which runs (R40). -/
def step (s : State) : Host.Outcome State Fault Refusal := exec (decodeWord (fetchWord s)) s

/-- The state with a word driven where `step` takes its next instruction, the input ports (log 10); `P` and `W` follow
at once. Bits above `nbits` are 0. -/
def State.withFetchWord (s : State) (nbits w : Nat) : State :=
  s.present (unpack (BitVec.ofNat 24 (w % 2 ^ nbits)))

end Sys2Proof.Machine
end

