-- ==== Sys2Proof/Config.lean ====
section
/-! DEFINITION. The parameters of the block (R7): every one is a fixed constant, none is left to an implementation,
and the model takes none of them as an argument. The spec leaves no value of the block open, so there is no free
value here; the one open parameter, `SERIAL_ORDER`, belongs past the block's output (R29, decision D14). -/

namespace Sys2Proof.Config

/-- NDIGITS (R7). -/
def nDigits : Nat := 6

/-- DIGIT_W, the digit bits the block examines (R7). -/
def digitWidth : Nat := 4

/-- FRAME_BYTES (R7). -/
def frameBytes : Nat := 3

/-- FRAME_BITS (R7). -/
def frameBits : Nat := 24

/-- NWIRED: 20, not the 17 of TD's prose (R7, conflict C1). -/
def nWired : Nat := 20

/-- NUNUSED_OUT, frame bits with no source (R7). -/
def nUnusedOut : Nat := 4

/-- NUNCONNECTED_IN, input bits with no frame position (R7). -/
def nUnconnectedIn : Nat := 4

/-- USED_MASK, the frame positions that have a source (R7). -/
def usedMask : Frame := ⟨0xFE, 0xFE, 0x7E⟩

end Sys2Proof.Config
end

