-- ==== Sys2Proof/Machine/Caller.lean ====
section
/-! DEFINITION. The caller's side of the block's interface, as far as the spec fixes it: the digits of a time of day
(R85), the pseudo-operations (R54), presenting DigitSets one after another (R35, R89), and the bytes handed to the
sink (R28). The controller, the sink and the GPIO line themselves are excluded (R6). -/

namespace Sys2Proof.Machine

/-- The digits of a time: `d1 = ss % 10`, `d2 = ss / 10`, and so on for minutes and hours (R85). Of numbers that are
no time of day the low four bits of each quotient reach the port (R52; log 22). -/
def timeDigits (hh mm ss : Nat) : DigitSet :=
  digitsOfCaller (ss % 10) (ss / 10) (mm % 10) (mm / 10) (hh % 10) (hh / 10)

/-- The ENCODE a pseudo-operation stands for (R54). -/
def expandPseudo : Pseudo → Instr
  | .time hh mm ss => .encode (timeDigits hh mm ss)
  | .blank b => .encode ⟨b, b, b, b, b, b⟩

/-- Presents DigitSets in order and evaluates each; the WireFrames the calls return, in order (R35, R89). It ends where
a step does not answer a next state. -/
def evaluateAll : List DigitSet → State → List Frame
  | [], _ => []
  | d :: ds, s =>
    match step (s.present d) with
    | .next t => t.returned.toList ++ evaluateAll ds t
    | .fault _ => []
    | .refused _ => []

/-- The bytes of one frame as the sink takes them: byte0, byte1, byte2 (R28, decision D5; log 13). -/
def sinkBytes (w : Frame) : List Byte := [w.b0, w.b1, w.b2]

/-- The byte stream of a sequence of frames, each handed over whole and in order (R28, R35). -/
def sinkStream (ws : List Frame) : List Byte := ws.flatMap sinkBytes

end Sys2Proof.Machine
end

