-- ==== Sys2Proof/Machine/Wiring.lean ====
section
/-! DEFINITION. The wiring table as a constant of data (R21, R45), and the other ways the spec writes the wiring: a
loop over the table (R63, TD §9) and the inverse of R66. The meanings do not call these; they are the spec's second
reading of the same constant, for claims to hold the per-digit rules against. -/

namespace Sys2Proof.Machine

/-- The table of TD §4.1, line by line (R45): 20 entries (conflict C1). -/
def wiringTable : List WireEntry :=
  [⟨⟨.byte2, 5⟩, ⟨.d1, .bit1⟩⟩, ⟨⟨.byte2, 6⟩, ⟨.d1, .bit2⟩⟩, ⟨⟨.byte1, 6⟩, ⟨.d1, .bit3⟩⟩, ⟨⟨.byte2, 1⟩, ⟨.d1, .bit4⟩⟩]
  ++ [⟨⟨.byte2, 2⟩, ⟨.d2, .bit1⟩⟩, ⟨⟨.byte1, 7⟩, ⟨.d2, .bit2⟩⟩, ⟨⟨.byte1, 5⟩, ⟨.d2, .bit3⟩⟩]
  ++ [⟨⟨.byte2, 4⟩, ⟨.d3, .bit1⟩⟩, ⟨⟨.byte0, 4⟩, ⟨.d3, .bit2⟩⟩, ⟨⟨.byte0, 5⟩, ⟨.d3, .bit3⟩⟩, ⟨⟨.byte0, 6⟩, ⟨.d3, .bit4⟩⟩]
  ++ [⟨⟨.byte0, 2⟩, ⟨.d4, .bit1⟩⟩, ⟨⟨.byte0, 1⟩, ⟨.d4, .bit2⟩⟩, ⟨⟨.byte0, 3⟩, ⟨.d4, .bit3⟩⟩]
  ++ [⟨⟨.byte2, 3⟩, ⟨.d5, .bit1⟩⟩, ⟨⟨.byte1, 2⟩, ⟨.d5, .bit2⟩⟩, ⟨⟨.byte1, 1⟩, ⟨.d5, .bit3⟩⟩, ⟨⟨.byte0, 7⟩, ⟨.d5, .bit4⟩⟩]
  ++ [⟨⟨.byte1, 3⟩, ⟨.d6, .bit1⟩⟩, ⟨⟨.byte1, 4⟩, ⟨.d6, .bit2⟩⟩]

/-- One test of the loop: set the entry's frame bit if its digit bit is 1. -/
def applyEntry (d : DigitSet) (p : Frame) (e : WireEntry) : Frame :=
  if inputBit d e.src then setBit p e.dst.byte e.dst.bit else p

/-- The loop over a list of entries, from the all-zero buffer (R55, R63). -/
def wireByEntries (table : List WireEntry) (d : DigitSet) : Frame := table.foldl (applyEntry d) zeroFrame

/-- A digit assembled from four bits, bit1 first. -/
def digitOfBits (x1 x2 x3 x4 : Bool) : Digit := BitVec.ofBool x4 ++ BitVec.ofBool x3 ++ BitVec.ofBool x2 ++ BitVec.ofBool x1

/-- The inverse of WIRE on the used positions (R66). It is no operation of the block. -/
def readBack (p : Frame) : DigitSet where
  d1 := digitOfBits (frameBit p ⟨.byte2, 5⟩) (frameBit p ⟨.byte2, 6⟩) (frameBit p ⟨.byte1, 6⟩) (frameBit p ⟨.byte2, 1⟩)
  d2 := digitOfBits (frameBit p ⟨.byte2, 2⟩) (frameBit p ⟨.byte1, 7⟩) (frameBit p ⟨.byte1, 5⟩) false
  d3 := digitOfBits (frameBit p ⟨.byte2, 4⟩) (frameBit p ⟨.byte0, 4⟩) (frameBit p ⟨.byte0, 5⟩) (frameBit p ⟨.byte0, 6⟩)
  d4 := digitOfBits (frameBit p ⟨.byte0, 2⟩) (frameBit p ⟨.byte0, 1⟩) (frameBit p ⟨.byte0, 3⟩) false
  d5 := digitOfBits (frameBit p ⟨.byte2, 3⟩) (frameBit p ⟨.byte1, 2⟩) (frameBit p ⟨.byte1, 1⟩) (frameBit p ⟨.byte0, 7⟩)
  d6 := digitOfBits (frameBit p ⟨.byte1, 3⟩) (frameBit p ⟨.byte1, 4⟩) false false

end Sys2Proof.Machine
end

