-- ==== Sys2Proof/WellFormed.lean ====
section
/-! DEFINITION. Which terms the block or its caller can form.

Every operand word is legal (R53) and every DigitSet may be presented (R51, R83), so ENCODE, WIRE and WIRE.Dj have
no check: their operand widths are in their types. INVERT is defined on any three bytes but inside the block only
ever receives a frame whose four unused positions are 0 (R49, R66); that is its check. TIME takes a time of day
(R85). No meaning consults these checks. -/

namespace Sys2Proof

/-- The four positions with no source, byte0.bit0, byte1.bit0, byte2.bit0 and byte2.bit7, are 0: what R49 says of
every pre-inversion frame, and exactly the image of WIRE (R66). -/
def Frame.unusedClear (p : Frame) : Bool :=
  (p.b0 &&& 0x01) == 0 && (p.b1 &&& 0x01) == 0 && (p.b2 &&& 0x81) == 0

/-- The same four positions are 1: what R71 says of every WireFrame. -/
def Frame.unusedSet (w : Frame) : Bool :=
  (w.b0 &&& 0x01) == 0x01 && (w.b1 &&& 0x01) == 0x01 && (w.b2 &&& 0x81) == 0x81

/-- DESIGN CHOICE (log 17): an INVERT term is well-formed when its operand is a frame WIRE can produce. -/
def Instr.wellFormed : Instr → Bool
  | .encode _ => true
  | .wire _ => true
  | .wireD1 _ => true
  | .wireD2 _ => true
  | .wireD3 _ => true
  | .wireD4 _ => true
  | .wireD5 _ => true
  | .wireD6 _ => true
  | .invert p => p.unusedClear

/-- A time of day as the clock supplies it (R85): hours 0 to 23, minutes and seconds 0 to 59; `ss = 60` is never
presented. -/
def timeOfDay (hh mm ss : Nat) : Bool :=
  decide (hh < 24) && decide (mm < 60) && decide (ss < 60)

/-- `TIME` is written of a time of day (R54, R85); `BLANK b` of any 4-bit value. -/
def Pseudo.wellFormed : Pseudo → Bool
  | .time hh mm ss => timeOfDay hh mm ss
  | .blank _ => true

end Sys2Proof
end

