-- ==== Sys2Proof/Safety.lean ====
section
/-! DEFINITION. The words claims are stated in: the state a run reaches, the invariants of a state, and running
several stage operations one after another. -/

namespace Sys2Proof.Machine

/-- The next state of an outcome, if it is one. -/
def nextOf : Host.Outcome State Fault Refusal → Option State
  | .next t => some t
  | .fault _ => none
  | .refused _ => none

/-- The operations of a list, one after another, each on the state the one before left. -/
def execSeq : List Instr → State → Host.Outcome State Fault Refusal
  | [], s => .next s
  | i :: is, s =>
    match exec i s with
    | .next t => execSeq is t
    | .fault r => .fault r
    | .refused r => .refused r

/-- In whatever frame the call holds, every position without a source has its constant: 0 in a working buffer (R49), 1
in a WireFrame (R71). -/
abbrev State.FramesLegal (s : State) : Prop := s.buffer.unusedClear = true ∧ ∀ w ∈ s.returned, w.unusedSet = true

/-- Whatever frame the call holds is a frame of some DigitSet: a working buffer of WIRE, a WireFrame of ENCODE. -/
def State.FramesFromDigits (s : State) : Prop :=
  (∃ d, s.buffer = wire d) ∧ ∀ w ∈ s.returned, ∃ d, w = encodeFrame d

/-- No call is half done: none has been made, or the latest has returned the WireFrame of some DigitSet (R22, R32). -/
def State.CallWhole (s : State) : Prop :=
  s.caller.call = .notCalled ∨ ∃ d, s.caller.call = .returned (encodeFrame d)

/-- The states of a run: reset, then any presentations and evaluations in any order (R89). -/
inductive Reachable : State → Prop where
  | reset : Reachable State.reset
  | present {s : State} (d : DigitSet) : Reachable s → Reachable (s.present d)
  | step {s t : State} : Reachable s → step s = .next t → Reachable t

end Sys2Proof.Machine
end

