-- ==== Sys2Proof/Certificates/Slice0/Obligations.lean ====
section
/-! DEFINITION. The statements for the provers. Each docstring names the rules of spec/ a statement formalises. -/

namespace Sys2Proof.Machine

/-- `b(x) = 1 if x != 0 else 0`, as a byte (R62). -/
def oneIf (x : Digit) : Byte := if x = 0 then 0 else 1

/-- The row of the opcode table that wires one digit (R56 to R61). -/
def digitRow : DigitName → Digit → Instr
  | .d1, d => .wireD1 d
  | .d2, d => .wireD2 d
  | .d3, d => .wireD3 d
  | .d4, d => .wireD4 d
  | .d5, d => .wireD5 d
  | .d6, d => .wireD6 d

/-- What one digit contributes to the pre-inversion frame, from an all-zero buffer. -/
def contribution : DigitName → Digit → Frame
  | .d1, d => wireD1 d zeroFrame
  | .d2, d => wireD2 d zeroFrame
  | .d3, d => wireD3 d zeroFrame
  | .d4, d => wireD4 d zeroFrame
  | .d5, d => wireD5 d zeroFrame
  | .d6, d => wireD6 d zeroFrame

/-- Two DigitSets agree on all 20 connected input bits (R16). -/
def AgreeOnConnected (d e : DigitSet) : Prop :=
  ∀ b : InputBit, b ∉ unconnectedInputs → inputBit d b = inputBit e b

/-- The contributions of the values 0 to 15 of d1 alone, as R56 lists them. -/
def d1Contributions : List Frame :=
  [⟨0x00, 0x00, 0x00⟩, ⟨0x00, 0x00, 0x20⟩, ⟨0x00, 0x00, 0x40⟩, ⟨0x00, 0x00, 0x60⟩,
   ⟨0x00, 0x40, 0x00⟩, ⟨0x00, 0x40, 0x20⟩, ⟨0x00, 0x40, 0x40⟩, ⟨0x00, 0x40, 0x60⟩]
  ++ [⟨0x00, 0x00, 0x02⟩, ⟨0x00, 0x00, 0x22⟩, ⟨0x00, 0x00, 0x42⟩, ⟨0x00, 0x00, 0x62⟩,
   ⟨0x00, 0x40, 0x02⟩, ⟨0x00, 0x40, 0x22⟩, ⟨0x00, 0x40, 0x42⟩, ⟨0x00, 0x40, 0x62⟩]

/-- The contributions of the values 0 to 7 of d2 alone, as R57 lists them; 8 to 15 are the same in order. -/
def d2Contributions : List Frame :=
  [⟨0x00, 0x00, 0x00⟩, ⟨0x00, 0x00, 0x04⟩, ⟨0x00, 0x80, 0x00⟩, ⟨0x00, 0x80, 0x04⟩,
   ⟨0x00, 0x20, 0x00⟩, ⟨0x00, 0x20, 0x04⟩, ⟨0x00, 0xA0, 0x00⟩, ⟨0x00, 0xA0, 0x04⟩]

/-- The contributions of the values 0 to 15 of d3 alone, as R58 lists them. -/
def d3Contributions : List Frame :=
  [⟨0x00, 0x00, 0x00⟩, ⟨0x00, 0x00, 0x10⟩, ⟨0x10, 0x00, 0x00⟩, ⟨0x10, 0x00, 0x10⟩,
   ⟨0x20, 0x00, 0x00⟩, ⟨0x20, 0x00, 0x10⟩, ⟨0x30, 0x00, 0x00⟩, ⟨0x30, 0x00, 0x10⟩]
  ++ [⟨0x40, 0x00, 0x00⟩, ⟨0x40, 0x00, 0x10⟩, ⟨0x50, 0x00, 0x00⟩, ⟨0x50, 0x00, 0x10⟩,
   ⟨0x60, 0x00, 0x00⟩, ⟨0x60, 0x00, 0x10⟩, ⟨0x70, 0x00, 0x00⟩, ⟨0x70, 0x00, 0x10⟩]

/-- The contributions of the values 0 to 7 of d4 alone, as R59 lists them; 8 to 15 are the same in order. -/
def d4Contributions : List Frame :=
  [⟨0x00, 0x00, 0x00⟩, ⟨0x04, 0x00, 0x00⟩, ⟨0x02, 0x00, 0x00⟩, ⟨0x06, 0x00, 0x00⟩,
   ⟨0x08, 0x00, 0x00⟩, ⟨0x0C, 0x00, 0x00⟩, ⟨0x0A, 0x00, 0x00⟩, ⟨0x0E, 0x00, 0x00⟩]

/-- The contributions of the values 0 to 15 of d5 alone, as R60 lists them. -/
def d5Contributions : List Frame :=
  [⟨0x00, 0x00, 0x00⟩, ⟨0x00, 0x00, 0x08⟩, ⟨0x00, 0x04, 0x00⟩, ⟨0x00, 0x04, 0x08⟩,
   ⟨0x00, 0x02, 0x00⟩, ⟨0x00, 0x02, 0x08⟩, ⟨0x00, 0x06, 0x00⟩, ⟨0x00, 0x06, 0x08⟩]
  ++ [⟨0x80, 0x00, 0x00⟩, ⟨0x80, 0x00, 0x08⟩, ⟨0x80, 0x04, 0x00⟩, ⟨0x80, 0x04, 0x08⟩,
   ⟨0x80, 0x02, 0x00⟩, ⟨0x80, 0x02, 0x08⟩, ⟨0x80, 0x06, 0x00⟩, ⟨0x80, 0x06, 0x08⟩]

/-- The contributions of the values 0 to 3 of d6 alone, as R61 lists them; 4 to 15 repeat them in order. -/
def d6Contributions : List Frame :=
  [⟨0x00, 0x00, 0x00⟩, ⟨0x00, 0x08, 0x00⟩, ⟨0x00, 0x10, 0x00⟩, ⟨0x00, 0x18, 0x00⟩]

/-- A worked example of the rules (R56 to R61): with `d` at the ports `P` and `W` are the frames listed, and ENCODE of
`d`, from any state, returns that `W`. -/
def EncodeGives (d : DigitSet) (p w : Frame) : Prop :=
  ∀ s : State, (s.present d).p = p ∧ (s.present d).w = w ∧ ∃ t, exec (.encode d) s = .next t ∧ t.returned = some w

/-- The pairs (s, t) of R47's table: frame bit t of `PF` takes operand bit s of `DS`. -/
def flatWiring : List (Nat × Nat) :=
  [(0, 21), (1, 22), (2, 14), (3, 17), (4, 18), (5, 15), (6, 13), (8, 20), (9, 4), (10, 5)]
  ++ [(11, 6), (12, 2), (13, 1), (14, 3), (16, 19), (17, 10), (18, 9), (19, 7), (20, 11), (21, 12)]

/-- The masks of R64, the positions each digit can set. -/
def digitPositions : DigitName → Frame
  | .d1 => ⟨0x00, 0x40, 0x62⟩
  | .d2 => ⟨0x00, 0xA0, 0x04⟩
  | .d3 => ⟨0x70, 0x00, 0x10⟩
  | .d4 => ⟨0x0E, 0x00, 0x00⟩
  | .d5 => ⟨0x80, 0x06, 0x08⟩
  | .d6 => ⟨0x00, 0x18, 0x00⟩

end Sys2Proof.Machine

open Sys2Proof Sys2Proof.Machine

/-! ### Decoding, encoding, fetching -/

/-- A step runs the instruction the decoder reads from the bytes of the operand word at the ports, and those bytes
always decode to a well-formed instruction (R13, R40). -/
def Obligations.StepRunsTheDecodedInstruction : Prop :=
  (∀ (s : State) (i : Instr) (rest : List Byte),
    decode (fetchBytes s) = .ok (i, rest) → i.wellFormed = true → step s = exec i s ∧ rest = []) ∧
  (∀ s : State, ∃ i, decode (fetchBytes s) = .ok (i, []) ∧ i.wellFormed = true ∧ i = .encode s.ports)

/-- A word placed where the next step takes its instruction is the one that runs: ENCODE of the digits then at the ports,
whose `P` and `W` stand at once; placing it changes nothing of the call (the model's interface, log 10; R13, R40). -/
def Obligations.PlacedWordRunsAsDecoded : Prop :=
  ∀ (s : State) (nbits w : Nat) (i : Instr), decodeTableWord nbits w = some i →
    step (s.withFetchWord nbits w) = exec i (s.withFetchWord nbits w) ∧
    i = .encode (s.withFetchWord nbits w).ports ∧
    (∀ e ∈ wiringTable, frameBit (s.withFetchWord nbits w).w e.dst = !inputBit (s.withFetchWord nbits w).ports e.src) ∧
    (s.withFetchWord nbits w).caller.call = s.caller.call

/-- Every operand word is legal and selects ENCODE on its own fields, nothing but too few bytes is refused, there is
one length, and every operand word has a result (R53). The bytes of a word and the refusal of an incomplete one are the
model's choice, log 8 and log 9. -/
def Obligations.EveryOperandWordIsLegal : Prop :=
  (∀ (b0 b1 b2 : Byte) (rest : List Byte), ∃ d,
    decode (b0 :: b1 :: b2 :: rest) = .ok (.encode d, rest) ∧
    (pack d).toNat = b2.toNat * 65536 + b1.toNat * 256 + b0.toNat) ∧
  (∀ bytes : List Byte, decode bytes = .error .incompleteOperandWord ↔ bytes.length < 3) ∧
  (∀ (w : Word24) (s : State), ∃ t, exec (decodeWord w) s = .next t ∧ step (s.present (unpack w)) = .next (t.present (unpack w)))

/-- Words written out by hand from R43 and R46 decode to the row's operands: 12:34:56 is `0x123456`, and each stage
row reads its own field. The order of the bytes is the model's choice, log 8. -/
def Obligations.WrittenOutWordsDecode : Prop :=
  decode [0x56, 0x34, 0x12] = .ok (.encode ⟨6, 5, 4, 3, 2, 1⟩, []) ∧
  decodeRow .wire 0x235958 = .wire ⟨8, 5, 9, 5, 3, 2⟩ ∧
  decodeRow .wireD4 0x00F000 = .wireD4 15 ∧
  decodeRow .invert 0xDFFFFF = .invert ⟨0xFF, 0xFF, 0xDF⟩

/-- Decoding an instruction's encoding as its row gives the instruction back with every operand, for every operand
value; and ENCODE's bytes, whatever follows them, decode to it (R41, R43, R46, opcode_table.json; reading a word as a
named row is log 5, the order of bytes log 8). -/
def Obligations.RowDecodeOfEncodeIsIdentity : Prop :=
  (∀ i : Instr, decodeRow i.row (encode i) = i) ∧
  (∀ (d : DigitSet) (rest : List Byte), decode (encodeBytes (.encode d) ++ rest) = .ok (.encode d, rest))

/-- Every operand word has one meaning: encoding what it decodes to gives the same word, for ENCODE, WIRE and INVERT,
whose rows read all 24 bits (R41, R43, R46). -/
def Obligations.EncodeOfDecodedWordIsIdentity : Prop :=
  ∀ w : Word24, encode (decodeWord w) = w ∧ encode (decodeRow .wire w) = w ∧ encode (decodeRow .invert w) = w

/-- The packed operand word: `dj.bitN = DS[4*(j-1) + (N-1)]`, and DS is the sum of the six shifted digits (R43). -/
def Obligations.PackedWordPlacesEveryDigitBit : Prop :=
  (∀ (d : DigitSet) (b : InputBit), (pack d).getLsbD (4 * (digitNumber b.digit - 1) + (bitNumber b.bit - 1)) = inputBit d b) ∧
  (∀ d : DigitSet, (pack d).toNat = d.d6.toNat * 2 ^ 20 + d.d5.toNat * 2 ^ 16 + d.d4.toNat * 2 ^ 12 +
    d.d3.toNat * 2 ^ 8 + d.d2.toNat * 2 ^ 4 + d.d1.toNat) ∧
  pack (timeDigits 12 34 56) = 0x123456

/-- The flat frame word: `F[8*i + k] = byte i, bit k`, `F = byte2<<16 | byte1<<8 | byte0` (R46). -/
def Obligations.FlatWordPlacesEveryFrameBit : Prop :=
  (∀ (p : Frame) (i : FrameByte) (k : Fin 8), p.flat.getLsbD (8 * byteIndex i + k.val) = (frameByte p i).getLsbD k.val) ∧
  (∀ p : Frame, p.flat.toNat = p.b2.toNat * 2 ^ 16 + p.b1.toNat * 2 ^ 8 + p.b0.toNat) ∧
  (⟨0xFF, 0xFF, 0xDF⟩ : Frame).flat = 0xDFFFFF

/-- Digit bits are numbered from 1: the test with mask `2^(N-1)` is `(d >> (N-1)) & 1`, on digits and on a caller's
integer of any width (R8). -/
def Obligations.DigitBitsAreNumberedFromOne : Prop :=
  (∀ n : DigitBit, (bitMask n).toNat = 2 ^ (bitNumber n - 1)) ∧
  (∀ (d : Digit) (n : DigitBit), (testBit d n).toNat = (d.toNat >>> (bitNumber n - 1)) &&& 1) ∧
  (∀ (v : Nat) (n : DigitBit), (testBit (digitOfCaller v) n).toNat = (v >>> (bitNumber n - 1)) &&& 1)

/-! ### The nine rows -/

/-- WIRE.D1 (R56): from any state it answers a next state whose working buffer is the old one with d1's four bits ORed
in, and no other bit of it changed; d1 alone contributes R56's sixteen values; the worked example. -/
def Obligations.WireD1SetsItsFourPositions : Prop :=
  (∀ (d : Digit) (s : State), ∃ t, exec (.wireD1 d) s = .next t ∧ t.buffer = ⟨s.buffer.b0, s.buffer.b1 ||| oneIf (d &&& 4) <<< 6,
    s.buffer.b2 ||| oneIf (d &&& 1) <<< 5 ||| oneIf (d &&& 2) <<< 6 ||| oneIf (d &&& 8) <<< 1⟩) ∧
  (∀ (d : Digit) (s : State), ∃ t, exec (.wire ⟨d, 0, 0, 0, 0, 0⟩) s = .next t ∧ d1Contributions[d.toNat]? = some t.buffer) ∧
  EncodeGives ⟨1, 0, 0, 0, 0, 0⟩ ⟨0x00, 0x00, 0x20⟩ ⟨0xFF, 0xFF, 0xDF⟩

/-- WIRE.D2 (R57): as for d1, with three connected bits; d2 behaves as `d2 & 7`. -/
def Obligations.WireD2SetsItsThreePositions : Prop :=
  (∀ (d : Digit) (s : State), ∃ t, exec (.wireD2 d) s = .next t ∧ t.buffer = ⟨s.buffer.b0,
    s.buffer.b1 ||| oneIf (d &&& 2) <<< 7 ||| oneIf (d &&& 4) <<< 5, s.buffer.b2 ||| oneIf (d &&& 1) <<< 2⟩) ∧
  (∀ (d : Digit) (s : State), ∃ t, exec (.wire ⟨0, d, 0, 0, 0, 0⟩) s = .next t ∧ d2Contributions[d.toNat % 8]? = some t.buffer) ∧
  EncodeGives ⟨0, 5, 0, 0, 0, 0⟩ ⟨0x00, 0x20, 0x04⟩ ⟨0xFF, 0xDF, 0xFB⟩

/-- WIRE.D3 (R58): bit1 lands in byte2, bits 2 to 4 in byte0. -/
def Obligations.WireD3SetsItsFourPositions : Prop :=
  (∀ (d : Digit) (s : State), ∃ t, exec (.wireD3 d) s = .next t ∧ t.buffer = ⟨
    s.buffer.b0 ||| oneIf (d &&& 2) <<< 4 ||| oneIf (d &&& 4) <<< 5 ||| oneIf (d &&& 8) <<< 6, s.buffer.b1,
    s.buffer.b2 ||| oneIf (d &&& 1) <<< 4⟩) ∧
  (∀ (d : Digit) (s : State), ∃ t, exec (.wire ⟨0, 0, d, 0, 0, 0⟩) s = .next t ∧ d3Contributions[d.toNat]? = some t.buffer) ∧
  EncodeGives ⟨0, 0, 9, 0, 0, 0⟩ ⟨0x40, 0x00, 0x10⟩ ⟨0xBF, 0xFF, 0xEF⟩

/-- WIRE.D4 (R59): the two low bits are crossed, byte0 only; d4 behaves as `d4 & 7`. -/
def Obligations.WireD4SetsItsThreePositions : Prop :=
  (∀ (d : Digit) (s : State), ∃ t, exec (.wireD4 d) s = .next t ∧ t.buffer = ⟨
    s.buffer.b0 ||| oneIf (d &&& 1) <<< 2 ||| oneIf (d &&& 2) <<< 1 ||| oneIf (d &&& 4) <<< 3, s.buffer.b1, s.buffer.b2⟩) ∧
  (∀ (d : Digit) (s : State), ∃ t, exec (.wire ⟨0, 0, 0, d, 0, 0⟩) s = .next t ∧ d4Contributions[d.toNat % 8]? = some t.buffer) ∧
  EncodeGives ⟨0, 0, 0, 3, 0, 0⟩ ⟨0x06, 0x00, 0x00⟩ ⟨0xF9, 0xFF, 0xFF⟩

/-- WIRE.D5 (R60): bits 2 and 3 are crossed within byte1; all three bytes are touched. -/
def Obligations.WireD5SetsItsFourPositions : Prop :=
  (∀ (d : Digit) (s : State), ∃ t, exec (.wireD5 d) s = .next t ∧ t.buffer = ⟨s.buffer.b0 ||| oneIf (d &&& 8) <<< 7,
    s.buffer.b1 ||| oneIf (d &&& 2) <<< 2 ||| oneIf (d &&& 4) <<< 1, s.buffer.b2 ||| oneIf (d &&& 1) <<< 3⟩) ∧
  (∀ (d : Digit) (s : State), ∃ t, exec (.wire ⟨0, 0, 0, 0, d, 0⟩) s = .next t ∧ d5Contributions[d.toNat]? = some t.buffer) ∧
  EncodeGives ⟨0, 0, 0, 0, 9, 0⟩ ⟨0x80, 0x00, 0x08⟩ ⟨0x7F, 0xFF, 0xF7⟩

/-- WIRE.D6 (R61): byte1 only, in order and adjacent; d6 behaves as `d6 & 3`. -/
def Obligations.WireD6SetsItsTwoPositions : Prop :=
  (∀ (d : Digit) (s : State), ∃ t, exec (.wireD6 d) s = .next t ∧ t.buffer = ⟨s.buffer.b0,
    s.buffer.b1 ||| oneIf (d &&& 1) <<< 3 ||| oneIf (d &&& 2) <<< 4, s.buffer.b2⟩) ∧
  (∀ (d : Digit) (s : State), ∃ t, exec (.wire ⟨0, 0, 0, 0, 0, d⟩) s = .next t ∧ d6Contributions[d.toNat % 4]? = some t.buffer ∧
    t.buffer.b1.extractLsb' 3 2 = d.extractLsb' 0 2) ∧
  EncodeGives ⟨0, 0, 0, 0, 0, 2⟩ ⟨0x00, 0x10, 0x00⟩ ⟨0xFF, 0xEF, 0xFF⟩

/-- WIRE (R62): from any state it answers a next state whose working buffer is the closed form, byte by byte; the six
per-digit rows in order, from an all-zero buffer, build the same; the corner cases and the worked example. -/
def Obligations.WireIsTheClosedForm : Prop :=
  (∀ (d : DigitSet) (s : State), ∃ t, exec (.wire d) s = .next t ∧ t.buffer = wire d) ∧
  (∀ d : DigitSet, wire d = ⟨
    oneIf (d.d5 &&& 8) <<< 7 ||| oneIf (d.d3 &&& 8) <<< 6 ||| oneIf (d.d3 &&& 4) <<< 5 ||| oneIf (d.d3 &&& 2) <<< 4
      ||| oneIf (d.d4 &&& 4) <<< 3 ||| oneIf (d.d4 &&& 1) <<< 2 ||| oneIf (d.d4 &&& 2) <<< 1,
    oneIf (d.d2 &&& 2) <<< 7 ||| oneIf (d.d1 &&& 4) <<< 6 ||| oneIf (d.d2 &&& 4) <<< 5 ||| oneIf (d.d6 &&& 2) <<< 4
      ||| oneIf (d.d6 &&& 1) <<< 3 ||| oneIf (d.d5 &&& 2) <<< 2 ||| oneIf (d.d5 &&& 4) <<< 1,
    oneIf (d.d1 &&& 2) <<< 6 ||| oneIf (d.d1 &&& 1) <<< 5 ||| oneIf (d.d3 &&& 1) <<< 4 ||| oneIf (d.d5 &&& 1) <<< 3
      ||| oneIf (d.d2 &&& 1) <<< 2 ||| oneIf (d.d1 &&& 8) <<< 1⟩) ∧
  (∀ (d : DigitSet) (s : State), s.buffer = ⟨0x00, 0x00, 0x00⟩ → ∃ t,
    execSeq [.wireD1 d.d1, .wireD2 d.d2, .wireD3 d.d3, .wireD4 d.d4, .wireD5 d.d5, .wireD6 d.d6] s = .next t ∧
    t.buffer = wire d) ∧
  wire ⟨0, 0, 0, 0, 0, 0⟩ = ⟨0x00, 0x00, 0x00⟩ ∧ wire ⟨15, 15, 15, 15, 15, 15⟩ = ⟨0xFE, 0xFE, 0x7E⟩ ∧
  wire ⟨6, 5, 4, 3, 2, 1⟩ = ⟨0x26, 0x6C, 0x44⟩

/-- INVERT (R67): on any three bytes and from any state it answers a next state that returns their complement; the
equivalent forms; the corner cases, and no byte of a frame from WIRE ever inverts to 0. -/
def Obligations.InvertComplementsAllThreeBytes : Prop :=
  (∀ (p : Frame) (s : State), ∃ t, exec (.invert p) s = .next t ∧ t.returned = some (invertFrame p)) ∧
  (∀ p : Frame, invertFrame p = ⟨p.b0 ^^^ 0xFF, p.b1 ^^^ 0xFF, p.b2 ^^^ 0xFF⟩) ∧
  (∀ (p : Frame) (i : FrameByte), (frameByte (invertFrame p) i).toNat = 255 - (frameByte p i).toNat) ∧
  (∀ p : Frame, (invertFrame p).flat = p.flat ^^^ 0xFFFFFF) ∧
  (∀ (p : Frame) (i : FrameByte), p.unusedClear = true → frameByte (invertFrame p) i ≠ 0x00) ∧
  invertFrame ⟨0x00, 0x00, 0x00⟩ = ⟨0xFF, 0xFF, 0xFF⟩ ∧ invertFrame ⟨0xFE, 0xFE, 0x7E⟩ = ⟨0x01, 0x01, 0x81⟩ ∧
  invertFrame ⟨0x00, 0x00, 0x20⟩ = ⟨0xFF, 0xFF, 0xDF⟩

/-- ENCODE (R68): from any state it answers a next state that returns the closed form, and the output `W` that stands
there is the closed form of the present inputs; WIRE and then INVERT of its result return the same; the corner cases
and the example. The record a result stands in is the caller's, log 2. -/
def Obligations.EncodeIsTheClosedForm : Prop :=
  (∀ (d : DigitSet) (s : State), ∃ t, exec (.encode d) s = .next t ∧ t.returned = some (s.present d).w ∧ (s.present d).w = ⟨
    0xFF ^^^ (oneIf (d.d5 &&& 8) <<< 7 ||| oneIf (d.d3 &&& 8) <<< 6 ||| oneIf (d.d3 &&& 4) <<< 5 ||| oneIf (d.d3 &&& 2) <<< 4
      ||| oneIf (d.d4 &&& 4) <<< 3 ||| oneIf (d.d4 &&& 1) <<< 2 ||| oneIf (d.d4 &&& 2) <<< 1),
    0xFF ^^^ (oneIf (d.d2 &&& 2) <<< 7 ||| oneIf (d.d1 &&& 4) <<< 6 ||| oneIf (d.d2 &&& 4) <<< 5 ||| oneIf (d.d6 &&& 2) <<< 4
      ||| oneIf (d.d6 &&& 1) <<< 3 ||| oneIf (d.d5 &&& 2) <<< 2 ||| oneIf (d.d5 &&& 4) <<< 1),
    0xFF ^^^ (oneIf (d.d1 &&& 2) <<< 6 ||| oneIf (d.d1 &&& 1) <<< 5 ||| oneIf (d.d3 &&& 1) <<< 4 ||| oneIf (d.d5 &&& 1) <<< 3
      ||| oneIf (d.d2 &&& 1) <<< 2 ||| oneIf (d.d1 &&& 8) <<< 1)⟩) ∧
  (∀ (d : DigitSet) (s : State), ∃ t, execSeq [.wire d, .invert (wire d)] s = .next t ∧ t.returned = some (encodeFrame d)) ∧
  (∀ (d : DigitSet) (s : State), exec (.encode d) s = .next (s.withCall (.returned (encodeFrame d)))) ∧
  encodeFrame ⟨0, 0, 0, 0, 0, 0⟩ = ⟨0xFF, 0xFF, 0xFF⟩ ∧ encodeFrame ⟨15, 15, 15, 15, 15, 15⟩ = ⟨0x01, 0x01, 0x81⟩ ∧
  EncodeGives ⟨6, 5, 4, 3, 2, 1⟩ ⟨0x26, 0x6C, 0x44⟩ ⟨0xD9, 0x93, 0xBB⟩

/-- The six per-digit rows in ANY order, on a buffer that starts all zero, followed by INVERT of what they built, are
ENCODE; without the INVERT they are WIRE (R55, R62, R63, R68; what a stage alone leaves is log 6). -/
def Obligations.StagesInAnyDigitOrderAreEncode : Prop :=
  ∀ (d : DigitSet) (s : State) (order : List DigitName),
    order.Perm [.d1, .d2, .d3, .d4, .d5, .d6] → s.buffer = ⟨0x00, 0x00, 0x00⟩ →
    execSeq (order.map fun j => digitRow j (digitOf d j)) s = exec (.wire d) s ∧
    execSeq ((order.map fun j => digitRow j (digitOf d j)) ++ [.invert (wire d)]) s = exec (.encode d) s

/-- Every evaluation starts from an all-zero buffer: once a step has evaluated the block the buffer of the next call is
zero, and WIRE builds the same from any two states; the per-digit rows only ever set bits; and a bit of `P` is 1 at the
end exactly when some digit's rule set it (R55). -/
def Obligations.BufferStartsZeroAndBitsAreOnlySet : Prop :=
  (∀ s t : State, step s = .next t → t.buffer = ⟨0x00, 0x00, 0x00⟩) ∧
  (∀ (d : DigitSet) (s t u v : State), exec (.wire d) s = .next u → exec (.wire d) t = .next v → u.buffer = v.buffer) ∧
  (∀ (j : DigitName) (d : Digit) (s t : State) (b : FramePos),
    exec (digitRow j d) s = .next t → frameBit s.buffer b = true → frameBit t.buffer b = true) ∧
  (∀ (d : DigitSet) (b : FramePos), frameBit (wire d) b = true ↔ ∃ j, frameBit (contribution j (digitOf d j)) b = true)

/-- The frame of every row: no row drives the ports, and so none changes `P` or `W`; every row but ENCODE and INVERT
returns no frame; ENCODE and INVERT leave no working buffer behind; and a per-digit row leaves every bit of the buffer
outside that digit's own positions (R13, R16, R17, R20, R56 to R62, R64, R67). What a stage run on its own leaves is the
model's choice, log 6. -/
def Obligations.RowsLeaveEverythingElseUnchanged : Prop :=
  (∀ (i : Instr) (s t : State), exec i s = .next t → t.ports = s.ports ∧ t.p = s.p ∧ t.w = s.w ∧ t.block = s.block) ∧
  (∀ (i : Instr) (s t : State), i.row ≠ .encode → i.row ≠ .invert → exec i s = .next t → t.returned = none) ∧
  (∀ (i : Instr) (s t : State), i.row = .encode ∨ i.row = .invert → exec i s = .next t → t.buffer = ⟨0x00, 0x00, 0x00⟩) ∧
  (∀ (j : DigitName) (d : Digit) (s t : State) (b : FramePos), exec (digitRow j d) s = .next t →
    frameBit (digitPositions j) b = false → frameBit t.buffer b = frameBit s.buffer b)

/-! ### The wiring, written three ways -/

/-- The wiring table (R45): 20 entries with 20 distinct destinations and 20 distinct sources; each entry's frame bit
is its digit bit, for every DigitSet, and every position that is no entry's destination is 0. -/
def Obligations.EveryTableEntryIsWired : Prop :=
  wiringTable.length = 20 ∧ (wiringTable.map (·.dst)).Nodup ∧ (wiringTable.map (·.src)).Nodup ∧
  (∀ (d : DigitSet) (e : WireEntry), e ∈ wiringTable → frameBit (wire d) e.dst = inputBit d e.src) ∧
  (∀ (d : DigitSet) (t : FramePos), t ∉ wiringTable.map (·.dst) → frameBit (wire d) t = false)

/-- The same wiring as R47's map of flat indices: `PF[t] = DS[s]` for each listed pair, every other bit 0, a bijection
between the 20 connected sources and the 20 used destinations. -/
def Obligations.FlatIndicesAreWired : Prop :=
  (∀ (w : Word24) (s t : Nat), (s, t) ∈ flatWiring → (wire (unpack w)).flat.getLsbD t = w.getLsbD s) ∧
  (∀ (w : Word24) (t : Nat), t ∉ flatWiring.map Prod.snd → (wire (unpack w)).flat.getLsbD t = false) ∧
  (flatWiring.map Prod.fst).Nodup ∧ (flatWiring.map Prod.snd).Nodup ∧
  (∀ s, s < 24 → (s ∉ flatWiring.map Prod.fst ↔ s = 7 ∨ s = 15 ∨ s = 22 ∨ s = 23)) ∧
  (∀ t, t < 24 → (t ∉ flatWiring.map Prod.snd ↔ t = 0 ∨ t = 8 ∨ t = 16 ∨ t = 23)) ∧
  (∀ e ∈ wiringTable, (dsIndex e.src, frameIndex e.dst) ∈ flatWiring)

/-- Order independence (R63): the loop over the 20 entries in any order gives WIRE. -/
def Obligations.TableLoopInAnyOrderIsWire : Prop :=
  ∀ (d : DigitSet) (table : List WireEntry), table.Perm wiringTable → wireByEntries table d = wire d

/-- Disjointness (R64): each digit sets only its own positions and can set all of them, no two digits share one, the
six masks OR to `FE FE 7E`, and OR, XOR and addition of the six contributions all give WIRE. -/
def Obligations.DigitsNeverShareAPosition : Prop :=
  (∀ (j : DigitName) (d : Digit), orFrame (contribution j d) (digitPositions j) = digitPositions j) ∧
  (∀ j : DigitName, contribution j 15 = digitPositions j) ∧
  (∀ j k : DigitName, j ≠ k → andFrame (digitPositions j) (digitPositions k) = ⟨0x00, 0x00, 0x00⟩) ∧
  ([.d1, .d2, .d3, .d4, .d5, .d6].map digitPositions).foldl orFrame ⟨0x00, 0x00, 0x00⟩ = ⟨0xFE, 0xFE, 0x7E⟩ ∧
  (∀ (d : DigitSet) (op : Frame → Frame → Frame), op = orFrame ∨ op = xorFrame ∨ op = addFrame →
    ([.d1, .d2, .d3, .d4, .d5, .d6].map fun j => contribution j (digitOf d j)).foldl op ⟨0x00, 0x00, 0x00⟩ = wire d)

/-- Bitwise structure (R65): WIRE is a homomorphism for OR, AND and XOR on operand words, sends 0 to 0, and keeps the
number of 1 bits among the 20 connected input bits. -/
def Obligations.WireIsABitwiseHomomorphism : Prop :=
  (∀ a b : Word24, wire (unpack (a ||| b)) = orFrame (wire (unpack a)) (wire (unpack b)) ∧
    wire (unpack (a &&& b)) = andFrame (wire (unpack a)) (wire (unpack b)) ∧
    wire (unpack (a ^^^ b)) = xorFrame (wire (unpack a)) (wire (unpack b))) ∧
  wire (unpack 0) = ⟨0x00, 0x00, 0x00⟩ ∧
  (∀ w : Word24, onesCount (wire (unpack w)).flat = onesCount (w &&& 0x3F7F7F))

/-- Injectivity on connected bits and the inverse (R66): equal frames exactly for agreement on the 20 connected bits,
so WIRE is injective in range; reading back gives each digit; the image is the frames whose unused positions are 0,
`2^20` of them. -/
def Obligations.WireIsInvertibleOnConnectedBits : Prop :=
  (∀ d e : DigitSet, wire d = wire e ↔ AgreeOnConnected d e) ∧
  (∀ d e : DigitSet, inRange d = true → inRange e = true → wire d = wire e → d = e) ∧
  (∀ d : DigitSet, inRange d = true → readBack (wire d) = d) ∧
  (∀ p : Frame, (∃ d, wire d = p) ↔ (p.b0 &&& 0x01 = 0 ∧ p.b1 &&& 0x01 = 0 ∧ p.b2 &&& 0x81 = 0)) ∧
  Nat.card { p : Frame // ∃ d, wire d = p } = 2 ^ 20

/-! ### The output -/

/-- A WireFrame bit is the complement of the pre-inversion bit; at a used position it is 0 exactly when its digit bit
is 1, so a second inversion downstream carries the digit bits in true polarity; the unused positions are 1 (R48, R75). -/
def Obligations.OutputIsActiveLow : Prop :=
  (∀ (p : Frame) (t : FramePos), frameBit (invertFrame p) t = !frameBit p t) ∧
  (∀ (d : DigitSet) (e : WireEntry), e ∈ wiringTable →
    (frameBit (encodeFrame d) e.dst = false ↔ inputBit d e.src = true) ∧
    frameBit (invertFrame (encodeFrame d)) e.dst = inputBit d e.src) ∧
  (∀ (d : DigitSet) (t : FramePos), t ∈ unusedPositions → frameBit (encodeFrame d) t = true)

/-- The four unused positions are 0 before the inversion and 1 after it, for every DigitSet, and nothing outside the
20 used positions shows in a complemented WireFrame; there are `2^20` WireFrames (R49, R71, conflict C1). -/
def Obligations.UnusedPositionsAreFixed : Prop :=
  (∀ d : DigitSet, (wire d).b0 &&& 0x01 = 0 ∧ (wire d).b1 &&& 0x01 = 0 ∧ (wire d).b2 &&& 0x81 = 0 ∧
    (encodeFrame d).b0 &&& 0x01 = 0x01 ∧ (encodeFrame d).b1 &&& 0x01 = 0x01 ∧ (encodeFrame d).b2 &&& 0x81 = 0x81 ∧
    ~~~(encodeFrame d).b0 &&& ~~~0xFE = 0 ∧ ~~~(encodeFrame d).b1 &&& ~~~0xFE = 0 ∧ ~~~(encodeFrame d).b2 &&& ~~~0x7E = 0) ∧
  (∀ t : FramePos, t ∈ unusedPositions ↔ t ∉ wiringTable.map (·.dst)) ∧
  Nat.card { w : Frame // ∃ d, encodeFrame d = w } = 2 ^ 20

/-- Unconnected input bits never reach the frame: DigitSets that agree on the connected bits have the same `P` and `W`,
and `ENCODE(d1, …, d6) = ENCODE(d1, d2 & 7, d3, d4 & 7, d5, d6 & 3)` (R50). -/
def Obligations.UnconnectedBitsNeverReachTheFrame : Prop :=
  (∀ d e : DigitSet, AgreeOnConnected d e → wire d = wire e ∧ encodeFrame d = encodeFrame e) ∧
  (∀ d : DigitSet, encodeFrame d = encodeFrame ⟨d.d1, d.d2 &&& 7, d.d3, d.d4 &&& 7, d.d5, d.d6 &&& 3⟩)

/-- Out-of-range digits are not an error (R51): ENCODE answers a next state on every DigitSet; d2 and d4 behave as
`d & 7` and d6 as `d & 3`; d1, d3 and d5 are carried as they are, all four bits. -/
def Obligations.OutOfRangeDigitsEncodeTheirBits : Prop :=
  (∀ (d : DigitSet) (s : State), ∃ t, exec (.encode d) s = .next t ∧ t.returned = some (invertFrame (wire d))) ∧
  (∀ (d : DigitSet) (v : Digit), encodeFrame { d with d2 := v } = encodeFrame { d with d2 := v &&& 7 } ∧
    encodeFrame { d with d4 := v } = encodeFrame { d with d4 := v &&& 7 } ∧
    encodeFrame { d with d6 := v } = encodeFrame { d with d6 := v &&& 3 }) ∧
  (∀ d : DigitSet, encodeFrame { d with d2 := 13 } = encodeFrame { d with d2 := 5 }) ∧
  (∀ d : DigitSet, (readBack (invertFrame (encodeFrame d))).d1 = d.d1 ∧
    (readBack (invertFrame (encodeFrame d))).d3 = d.d3 ∧ (readBack (invertFrame (encodeFrame d))).d5 = d.d5)

/-- Bits above bit4 of a caller's value are ignored: at each of the six ports the value behaves as `d & 15` (R52). -/
def Obligations.BitsAboveBitFourAreIgnored : Prop :=
  ∀ n1 n2 n3 n4 n5 n6 : Nat,
    encodeFrame (digitsOfCaller n1 n2 n3 n4 n5 n6) =
      encodeFrame (digitsOfCaller (n1 &&& 15) (n2 &&& 15) (n3 &&& 15) (n4 &&& 15) (n5 &&& 15) (n6 &&& 15)) ∧
    (digitsOfCaller n1 n2 n3 n4 n5 n6).d1.toNat = n1 &&& 15 ∧ (digitsOfCaller n1 n2 n3 n4 n5 n6).d2.toNat = n2 &&& 15 ∧
    (digitsOfCaller n1 n2 n3 n4 n5 n6).d3.toNat = n3 &&& 15 ∧ (digitsOfCaller n1 n2 n3 n4 n5 n6).d4.toNat = n4 &&& 15 ∧
    (digitsOfCaller n1 n2 n3 n4 n5 n6).d5.toNat = n5 &&& 15 ∧ (digitsOfCaller n1 n2 n3 n4 n5 n6).d6.toNat = n6 &&& 15

/-- Operand extraction (R44): each digit is read only through its four tests, `(d & mask) != 0`; callers' values with
the same four tests on each digit give the same frame; and a connected bit is copied uninverted into `P`. -/
def Obligations.DigitsAreReadThroughFourTests : Prop :=
  (∀ (v : Nat) (n : DigitBit), testBit (digitOfCaller v) n = true ↔ v &&& (bitMask n).toNat ≠ 0) ∧
  (∀ d e : DigitSet, (∀ (j : DigitName) (n : DigitBit), testBit (digitOf d j) n = testBit (digitOf e j) n) →
    wire d = wire e ∧ encodeFrame d = encodeFrame e) ∧
  (∀ (d : DigitSet) (e : WireEntry), e ∈ wiringTable → frameBit (wire d) e.dst = testBit (digitOf d e.src.digit) e.src.bit)

/-- In range is the same as every unconnected input bit being 0, and the caller's time-of-day invariant is narrower (R42). -/
def Obligations.InRangeMeansUnconnectedBitsAreZero : Prop :=
  (∀ d : DigitSet, (d.d1.toNat ≤ 15 ∧ d.d2.toNat ≤ 7 ∧ d.d3.toNat ≤ 15 ∧ d.d4.toNat ≤ 7 ∧ d.d5.toNat ≤ 15 ∧ d.d6.toNat ≤ 3) ↔
    ∀ b ∈ unconnectedInputs, inputBit d b = false) ∧
  (∀ d : DigitSet, inRange d = true ↔ ∀ b ∈ unconnectedInputs, inputBit d b = false) ∧
  (∀ d : DigitSet, timeDigitsInvariant d = true → inRange d = true)

/-- Of the 24 input bits, each of the 20 connected ones drives exactly one frame position, the 4 unconnected ones are
don't-cares, and the block never drives the ports (R16). -/
def Obligations.EachConnectedBitDrivesOnePosition : Prop :=
  (∀ b : InputBit, b ∉ unconnectedInputs → ∃! t : FramePos, ∀ d : DigitSet, frameBit (wire d) t = inputBit d b) ∧
  (∀ b ∈ unconnectedInputs, ¬∃ t : FramePos, ∀ d : DigitSet, frameBit (wire d) t = inputBit d b) ∧
  (∀ d e : DigitSet, AgreeOnConnected d e → encodeFrame d = encodeFrame e) ∧
  (∀ (i : Instr) (s t : State), exec i s = .next t → t.ports = s.ports)

/-- Injectivity and read-back (R72): equal WireFrames exactly for agreement on the connected bits, injective in range,
and the digits are read back from a complemented WireFrame. -/
def Obligations.EncodeIsInjectiveInRange : Prop :=
  (∀ d e : DigitSet, encodeFrame d = encodeFrame e ↔ AgreeOnConnected d e) ∧
  (∀ d e : DigitSet, inRange d = true → inRange e = true → encodeFrame d = encodeFrame e → d = e) ∧
  (∀ d : DigitSet, inRange d = true → readBack (invertFrame (encodeFrame d)) = d ∧
    d.d6.toNat = ((~~~(encodeFrame d).b1 >>> 3) &&& 3).toNat)

/-- The complement law (R74): ENCODE turns OR into AND and AND into OR, the XOR of two WireFrames is WIRE of the XOR,
the 0 bits of `W` count the connected 1 bits, and flipping one connected input bit flips exactly one bit of `W`, at
R47's position and in the opposite sense. -/
def Obligations.EncodeObeysTheComplementLaw : Prop :=
  (∀ a b : Word24,
    encodeFrame (unpack (a ||| b)) = andFrame (encodeFrame (unpack a)) (encodeFrame (unpack b)) ∧
    encodeFrame (unpack (a &&& b)) = orFrame (encodeFrame (unpack a)) (encodeFrame (unpack b)) ∧
    xorFrame (encodeFrame (unpack a)) (encodeFrame (unpack b)) = wire (unpack (a ^^^ b))) ∧
  (∀ w : Word24, (encodeFrame (unpack w)).flat = 0xFFFFFF ^^^ (wire (unpack w)).flat ∧
    onesCount (~~~(encodeFrame (unpack w)).flat) = onesCount (w &&& 0x3F7F7F) ∧
    onesCount (encodeFrame (unpack w)).flat = 24 - onesCount (w &&& 0x3F7F7F)) ∧
  (∀ (w : Word24) (s t : Nat), (s, t) ∈ flatWiring →
    (encodeFrame (unpack (w ^^^ (1 : Word24) <<< s))).flat = (encodeFrame (unpack w)).flat ^^^ (1 : Word24) <<< t ∧
    (encodeFrame (unpack w)).flat.getLsbD t = !w.getLsbD s)

/-! ### Evaluations, sequences of them, and the caller -/

/-- `P` and `W` follow the inputs at every moment: from the moment any state's ports are driven with a DigitSet, every
used bit of `P` is its digit bit and of `W` its complement, and every unused bit its constant; they are the same in any
two states with the same ports, so nothing else reaches them; and no operation changes them (R13, R17, R92). -/
def Obligations.OutputFollowsTheInputsAtOnce : Prop :=
  (∀ (s : State) (d : DigitSet) (e : WireEntry), e ∈ wiringTable →
    frameBit (s.present d).p e.dst = inputBit d e.src ∧ frameBit (s.present d).w e.dst = !inputBit d e.src) ∧
  (∀ (s : State) (t : FramePos), t ∈ unusedPositions → frameBit s.p t = false ∧ frameBit s.w t = true) ∧
  (∀ s t : State, s.ports = t.ports → s.p = t.p ∧ s.w = t.w) ∧
  (∀ (i : Instr) (s t : State), exec i s = .next t → t.p = s.p ∧ t.w = s.w)

/-- One step from any state is one evaluation: it answers the state whose call has returned the `W` of the present
inputs and whose ports are as they were; a state stays as it is under a step exactly when its call has returned that
frame already (R13, R18, R32). That the returned frame is kept between steps is the model's choice, log 2. -/
def Obligations.StepReturnsTheOutput : Prop :=
  (∀ s : State, ∃ t, step s = .next t ∧ t.ports = s.ports ∧ t.returned = some s.w ∧ s.w = invertFrame (wire s.ports)) ∧
  (∀ s : State, step s = .next s ↔ s.returned = some (encodeFrame s.ports)) ∧
  (∀ s t : State, step s = .next t → step t = .next t)

/-- A WireFrame once returned stays as it is whatever the caller then presents, while the output follows the new inputs;
only the next evaluation returns another, its own (R18, R13). That the model keeps it is log 2. -/
def Obligations.ReturnedFrameIsImmutable : Prop :=
  ∀ (d e : DigitSet) (s t u : State), step (s.present d) = .next t → step (t.present e) = .next u →
    (t.present e).returned = some (encodeFrame d) ∧ (t.present e).w = encodeFrame e ∧ u.returned = some (encodeFrame e) ∧
    ((t.present e).returned = u.returned ↔ AgreeOnConnected d e)

/-- Determinism and purity (R69): the same DigitSet gives the same WireFrame from any two states, so whatever was
evaluated before, and changes neither the ports nor the block's nets; a second evaluation gives the same frame. -/
def Obligations.EncodeForgetsWhatWasEvaluatedBefore : Prop :=
  (∀ (d : DigitSet) (s t u v : State), exec (.encode d) s = .next u → exec (.encode d) t = .next v →
    u.returned = v.returned ∧ u.returned = some (encodeFrame d) ∧ u.ports = s.ports ∧ u.p = s.p ∧ u.w = s.w) ∧
  (∀ (d : DigitSet) (s : State) (before : List DigitSet),
    (evaluateAll (before ++ [d, d]) s).drop before.length = [encodeFrame d, encodeFrame d])

/-- Totality (R70): every row answers a next state from every state, so does every step, and a sequence of evaluations
gives one frame for each DigitSet presented. -/
def Obligations.EveryEvaluationCompletes : Prop :=
  (∀ (i : Instr) (s : State), ∃ t, exec i s = .next t) ∧
  (∀ s : State, ∃ t, step s = .next t) ∧
  (∀ (ds : List DigitSet) (s : State), (evaluateAll ds s).length = ds.length)

/-- Each frame depends on the DigitSet of its own evaluation and on nothing else, and frames come in the order of the
calls (R35). -/
def Obligations.FramesFollowTheCallsInOrder : Prop :=
  (∀ (ds : List DigitSet) (s : State), evaluateAll ds s = ds.map encodeFrame) ∧
  (∀ (ds : List DigitSet) (s : State), sinkStream (evaluateAll ds s) = ds.flatMap fun d => sinkBytes (encodeFrame d))

/-- The frame is handed over as byte0, byte1, byte2, three bytes an evaluation (R28; the order is the spec's own
decision D5, log 13): byte `3n + i` of the stream is byte `i` of the `n`-th frame. -/
def Obligations.SinkTakesBytesInIndexOrder : Prop :=
  ∀ (ds : List DigitSet) (s : State),
    (sinkStream (evaluateAll ds s)).length = 3 * ds.length ∧
    ∀ (n : Nat) (d : DigitSet) (i : FrameByte), ds[n]? = some d →
      (sinkStream (evaluateAll ds s))[3 * n + byteIndex i]? = some (frameByte (encodeFrame d) i)

/-- Two runs from any two states give the same frames exactly when the presented DigitSets agree, one by one, on the
connected bits: the frames show the connected bits and nothing else (R35, R50, R69, R72). -/
def Obligations.FramesRevealExactlyTheConnectedBits : Prop :=
  ∀ (ds es : List DigitSet) (s t : State),
    evaluateAll ds s = evaluateAll es t ↔ ds.map connectedPart = es.map connectedPart

/-- The digits of a time of day (R85): tens and units of hours, minutes and seconds, within the caller's invariant; TIME
presents exactly these to ENCODE and BLANK presents one value six times (R54; TIME of numbers that are no time of day
is log 22). -/
def Obligations.TimeDigitsAreTensAndUnits : Prop :=
  (∀ hh mm ss : Nat, timeOfDay hh mm ss = true →
    (timeDigits hh mm ss).d1.toNat = ss % 10 ∧ (timeDigits hh mm ss).d2.toNat = ss / 10 ∧
    (timeDigits hh mm ss).d3.toNat = mm % 10 ∧ (timeDigits hh mm ss).d4.toNat = mm / 10 ∧
    (timeDigits hh mm ss).d5.toNat = hh % 10 ∧ (timeDigits hh mm ss).d6.toNat = hh / 10 ∧
    timeDigitsInvariant (timeDigits hh mm ss) = true) ∧
  (∀ (hh mm ss : Nat) (s : State), exec (expandPseudo (.time hh mm ss)) s =
    exec (.encode ⟨BitVec.ofNat 4 (ss % 10), BitVec.ofNat 4 (ss / 10), BitVec.ofNat 4 (mm % 10), BitVec.ofNat 4 (mm / 10),
      BitVec.ofNat 4 (hh % 10), BitVec.ofNat 4 (hh / 10)⟩) s) ∧
  (∀ (b : Digit) (s : State), exec (expandPseudo (.blank b)) s = exec (.encode ⟨b, b, b, b, b, b⟩) s)

/-- The 24-hour property (R76): every time of day gives an in-range DigitSet, different times give different DigitSets
and different frames, over the day every used position is 0 in some frame and 1 in another, and the union of the
pre-inversion frames is `FE FE 7E`. -/
def Obligations.EveryTimeOfDayHasItsOwnFrame : Prop :=
  (∀ hh mm ss : Nat, timeOfDay hh mm ss = true → inRange (timeDigits hh mm ss) = true) ∧
  (∀ hh mm ss h' m' s' : Nat, timeOfDay hh mm ss = true → timeOfDay h' m' s' = true →
    (timeDigits hh mm ss = timeDigits h' m' s' ∨ encodeFrame (timeDigits hh mm ss) = encodeFrame (timeDigits h' m' s')) →
    hh = h' ∧ mm = m' ∧ ss = s') ∧
  (∀ t ∈ wiringTable.map (·.dst),
    (∃ hh mm ss, timeOfDay hh mm ss = true ∧ frameBit (encodeFrame (timeDigits hh mm ss)) t = false) ∧
    (∃ hh mm ss, timeOfDay hh mm ss = true ∧ frameBit (encodeFrame (timeDigits hh mm ss)) t = true)) ∧
  (∀ t : FramePos, (∃ hh mm ss, timeOfDay hh mm ss = true ∧ frameBit (wire (timeDigits hh mm ss)) t = true) ↔
    frameBit ⟨0xFE, 0xFE, 0x7E⟩ t = true)

/-- The displayed time is in the frame: from any state, presenting the digits of a time of day and evaluating returns a
WireFrame whose complement reads back to the tens and units of that time (R54, R68, R72, R85). -/
def Obligations.FrameOfATimeReadsBackToTheTime : Prop :=
  ∀ (hh mm ss : Nat) (s : State), timeOfDay hh mm ss = true →
    ∃ t w, step (s.present (timeDigits hh mm ss)) = .next t ∧ t.returned = some w ∧
      (readBack (invertFrame w)).d2.toNat * 10 + (readBack (invertFrame w)).d1.toNat = ss ∧
      (readBack (invertFrame w)).d4.toNat * 10 + (readBack (invertFrame w)).d3.toNat = mm ∧
      (readBack (invertFrame w)).d6.toNat * 10 + (readBack (invertFrame w)).d5.toNat = hh

/-! ### Invariants and reset -/

/-- In every frame a call holds the unused positions have their constants, 0 in a working buffer and 1 in a returned
WireFrame, through every well-formed row, every step and every presentation, from every state in which they do (R49,
R71). Which INVERT terms are well-formed is log 17, what a stage run on its own leaves is log 6, and that a frame is kept
between steps is log 2: all three the model's choice. -/
def Obligations.FramesStayLegal : Prop :=
  (∀ (i : Instr) (s t : State), i.wellFormed = true → s.FramesLegal → exec i s = .next t → t.FramesLegal) ∧
  (∀ s t : State, s.FramesLegal → step s = .next t → t.FramesLegal) ∧
  (∀ (s : State) (d : DigitSet), s.FramesLegal → (s.present d).FramesLegal)

/-- Every frame a call holds is a frame of some DigitSet, a working buffer of WIRE and a returned frame of ENCODE,
through every well-formed row, every step and every presentation (R64, R66, R68). The choices it rests on are those of
FramesStayLegal: log 17, log 6 and log 2. -/
def Obligations.FramesStayFramesOfDigits : Prop :=
  (∀ (i : Instr) (s t : State), i.wellFormed = true → s.FramesFromDigits → exec i s = .next t → t.FramesFromDigits) ∧
  (∀ s t : State, s.FramesFromDigits → step s = .next t → t.FramesFromDigits) ∧
  (∀ (s : State) (d : DigitSet), s.FramesFromDigits → (s.present d).FramesFromDigits)

/-- A step and a presentation never leave a call half done, and so no run does: the caller sees whole WireFrames of
DigitSets only, no working buffer (R22, R32, R40; the record of the call is log 2). -/
def Obligations.NoRunLeavesACallHalfDone : Prop :=
  (∀ s t : State, step s = .next t → t.CallWhole) ∧
  (∀ (s : State) (d : DigitSet), s.CallWhole → (s.present d).CallWhole) ∧
  (∀ s : State, Reachable s → s.CallWhole ∧ s.FramesLegal ∧ s.buffer = ⟨0x00, 0x00, 0x00⟩)

/-- After a step from any state whatever, legal or not, the returned WireFrame has its constants at the unused positions
and at every used one the complement of the port bit wired to it, and no working buffer remains (R18, R48, R49). -/
def Obligations.StepMakesFramesLegal : Prop :=
  ∀ s t : State, step s = .next t → t.FramesLegal ∧ ∃ w, t.returned = some w ∧
    (∀ e ∈ wiringTable, frameBit w e.dst = !inputBit s.ports e.src) ∧ ∀ b ∈ unusedPositions, frameBit w b = true

/-- At reset no call has been made and no frame returned (R92), so the frames a call holds are legal and frames of
digits; `P` is `00 00 00` and `W` is `FF FF FF`, and the first step returns that `W`. The zero inputs of reset are the
model's choice (log 3, DESIGN CHOICE); that ENCODE of zero inputs is `FF FF FF` is R24's. -/
def Obligations.ResetIsLegalBeforeAnyCall : Prop :=
  State.reset.FramesLegal ∧ State.reset.FramesFromDigits ∧ State.reset.CallWhole ∧ State.reset.returned = none ∧
  State.reset.p = ⟨0x00, 0x00, 0x00⟩ ∧ State.reset.w = ⟨0xFF, 0xFF, 0xFF⟩ ∧
  encodeFrame ⟨0, 0, 0, 0, 0, 0⟩ = ⟨0xFF, 0xFF, 0xFF⟩ ∧
  ∃ t, step State.reset = .next t ∧ t.returned = some ⟨0xFF, 0xFF, 0xFF⟩

/-- The parameters of R7 are those of the table the rows implement: 20 wired bits, and the used positions are the
mask `FE FE 7E`. -/
def Obligations.ParametersMatchTheWiring : Prop :=
  wiringTable.length = Config.nWired ∧ unusedPositions.length = Config.nUnusedOut ∧
  unconnectedInputs.length = Config.nUnconnectedIn ∧
  Config.nWired + Config.nUnusedOut = Config.frameBits ∧
  Config.nWired + Config.nUnconnectedIn = Config.nDigits * Config.digitWidth ∧
  Config.frameBits = 8 * Config.frameBytes ∧
  (∀ t : FramePos, frameBit Config.usedMask t = true ↔ ∃ e ∈ wiringTable, e.dst = t) ∧
  (∀ b : InputBit, b ∈ unconnectedInputs ↔ ∀ e ∈ wiringTable, e.src ≠ b)
end

