-- ==== Sys2Proof/Laws/Decode.lean ====
section
/-! SUPPORT. The packing and the unpacking of a word undo each other, field by field (R43, R46). -/

namespace Sys2Proof

@[simp] theorem unpack_pack (d : DigitSet) : unpack (pack d) = d := by
  rcases d with ⟨d1, d2, d3, d4, d5, d6⟩
  simp only [unpack, pack, DigitSet.mk.injEq]
  refine ⟨?_, ?_, ?_, ?_, ?_, ?_⟩ <;> (ext i hi; interval_cases i <;> simp)

@[simp] theorem pack_unpack (w : Word24) : pack (unpack w) = w := by
  simp only [unpack, pack]
  ext i hi
  interval_cases i <;> simp

/-- Three bytes cut from a word, least significant first, assemble to the word. -/
@[simp] theorem wordOfBytes_extract (w : Word24) :
    wordOfBytes (w.extractLsb' 0 8) (w.extractLsb' 8 8) (w.extractLsb' 16 8) = w := by
  simp only [wordOfBytes]
  ext i hi
  interval_cases i <;> simp

/-- Three whole bytes always decode, to the ENCODE of their word, and leave what follows them. -/
theorem decode_bytesOfWord (w : Word24) (rest : List Byte) :
    decode (bytesOfWord w ++ rest) = .ok (.encode (unpack w), rest) := by
  simp [bytesOfWord, decode, decodeWord, decodeRow]

end Sys2Proof
end

