-- ==== Sys2Proof/Laws/State.lean ====
section
/-! SUPPORT. One lemma per field and accessor per update of State, and those of the reset state, so that no later proof
unfolds a record update. -/

namespace Sys2Proof.Machine

@[simp] theorem withCall_ports (s : State) (c : Call) : (s.withCall c).ports = s.ports := rfl
@[simp] theorem withCall_call (s : State) (c : Call) : (s.withCall c).caller.call = c := rfl
@[simp] theorem withCall_p (s : State) (c : Call) : (s.withCall c).p = s.p := rfl
@[simp] theorem withCall_w (s : State) (c : Call) : (s.withCall c).w = s.w := rfl
@[simp] theorem withCall_withCall (s : State) (c c' : Call) : (s.withCall c).withCall c' = s.withCall c' := rfl

@[simp] theorem buffer_wiring (s : State) (p : Frame) : (s.withCall (.wiring p)).buffer = p := rfl
@[simp] theorem buffer_returned (s : State) (w : Frame) : (s.withCall (.returned w)).buffer = zeroFrame := rfl
@[simp] theorem buffer_notCalled (s : State) : (s.withCall .notCalled).buffer = zeroFrame := rfl
@[simp] theorem returned_wiring (s : State) (p : Frame) : (s.withCall (.wiring p)).returned = none := rfl
@[simp] theorem returned_returned (s : State) (w : Frame) : (s.withCall (.returned w)).returned = some w := rfl
@[simp] theorem returned_notCalled (s : State) : (s.withCall .notCalled).returned = none := rfl

@[simp] theorem present_ports (s : State) (d : DigitSet) : (s.present d).ports = d := rfl
@[simp] theorem present_call (s : State) (d : DigitSet) : (s.present d).caller.call = s.caller.call := rfl
@[simp] theorem present_buffer (s : State) (d : DigitSet) : (s.present d).buffer = s.buffer := rfl
@[simp] theorem present_returned (s : State) (d : DigitSet) : (s.present d).returned = s.returned := rfl
@[simp] theorem present_p (s : State) (d : DigitSet) : (s.present d).p = wire d := rfl
@[simp] theorem present_w (s : State) (d : DigitSet) : (s.present d).w = encodeFrame d := rfl

@[simp] theorem reset_ports : State.reset.ports = ⟨0, 0, 0, 0, 0, 0⟩ := rfl
@[simp] theorem reset_call : State.reset.caller.call = .notCalled := rfl
@[simp] theorem reset_buffer : State.reset.buffer = zeroFrame := rfl
@[simp] theorem reset_returned : State.reset.returned = none := rfl

/-- Two states are equal when the ports and the calls are: the block holds nothing. -/
theorem state_ext {s t : State} (h₁ : s.ports = t.ports) (h₂ : s.caller.call = t.caller.call) : s = t := by
  rcases s with ⟨⟨⟩, ⟨d, c⟩⟩; rcases t with ⟨⟨⟩, ⟨e, c'⟩⟩
  simp only [State.ports] at h₁ h₂
  rw [h₁, h₂]

end Sys2Proof.Machine
end

