-- ==== Sys2Proof/Laws/Ops.lean ====
section
/-! SUPPORT. One lemma per shared operation that says all it can do, in terms of single frame bits: later proofs cite
these and unfold neither `setBit` nor `wireBit`. -/

namespace Sys2Proof.Machine

/-- Two frames are equal when every one of their 24 bits is. -/
theorem frame_ext {p q : Frame} (h : ∀ t, frameBit p t = frameBit q t) : p = q := by
  have byte_eq (i : FrameByte) : frameByte p i = frameByte q i :=
    BitVec.eq_of_getLsbD_eq fun k hk => h ⟨i, k, hk⟩
  have h0 := byte_eq .byte0
  have h1 := byte_eq .byte1
  have h2 := byte_eq .byte2
  cases p; cases q
  simp_all [frameByte]

@[simp] theorem frameBit_zeroFrame (t : FramePos) : frameBit zeroFrame t = false := by
  rcases t with ⟨i, k⟩; cases i <;> simp [frameBit, frameByte, zeroFrame]

/-- Setting a bit sets that bit and changes no other. -/
@[simp] theorem frameBit_setBit (p : Frame) (i : FrameByte) (k : Fin 8) (t : FramePos) :
    frameBit (setBit p i k) t = (frameBit p t || decide (t = ⟨i, k⟩)) := by
  have one_bit : ∀ k l : Fin 8, ((1 : Byte) <<< k.val).getLsbD l.val = decide (l = k) := by decide
  rcases t with ⟨j, l⟩
  cases i <;> cases j <;> simp only [frameBit, setBit, putByte, frameByte, BitVec.getLsbD_or, one_bit] <;> simp

/-- One line of a per-digit rule sets its frame bit when its digit bit is 1 and changes no other bit. -/
@[simp] theorem frameBit_wireBit (d : Digit) (n : DigitBit) (i : FrameByte) (k : Fin 8) (p : Frame) (t : FramePos) :
    frameBit (wireBit d n i k p) t = (frameBit p t || (testBit d n && decide (t = ⟨i, k⟩))) := by
  unfold wireBit
  cases testBit d n <;> simp

/-- One test of the table loop does the same. -/
@[simp] theorem frameBit_applyEntry (d : DigitSet) (p : Frame) (e : WireEntry) (t : FramePos) :
    frameBit (applyEntry d p e) t = (frameBit p t || (inputBit d e.src && decide (t = e.dst))) := by
  unfold applyEntry
  cases inputBit d e.src <;> simp

/-- Inverting complements every one of the 24 bits (R67). -/
@[simp] theorem frameBit_invertFrame (p : Frame) (t : FramePos) : frameBit (invertFrame p) t = !frameBit p t := by
  rcases t with ⟨i, k⟩
  cases i <;> simp [frameBit, frameByte, invertFrame]

@[simp] theorem frameBit_orFrame (a b : Frame) (t : FramePos) :
    frameBit (orFrame a b) t = (frameBit a t || frameBit b t) := by
  rcases t with ⟨i, k⟩; cases i <;> simp [frameBit, frameByte, orFrame]

@[simp] theorem frameBit_andFrame (a b : Frame) (t : FramePos) :
    frameBit (andFrame a b) t = (frameBit a t && frameBit b t) := by
  rcases t with ⟨i, k⟩; cases i <;> simp [frameBit, frameByte, andFrame]

@[simp] theorem frameBit_xorFrame (a b : Frame) (t : FramePos) :
    frameBit (xorFrame a b) t = (frameBit a t ^^ frameBit b t) := by
  rcases t with ⟨i, k⟩; cases i <;> simp [frameBit, frameByte, xorFrame]

/-- What WIRE.D1 adds to a frame, bit by bit (R56). -/
theorem frameBit_wireD1 (d : Digit) (p : Frame) (t : FramePos) :
    frameBit (wireD1 d p) t = (frameBit p t || (testBit d .bit1 && decide (t = ⟨.byte2, 5⟩)) ||
      (testBit d .bit2 && decide (t = ⟨.byte2, 6⟩)) || (testBit d .bit3 && decide (t = ⟨.byte1, 6⟩)) ||
      (testBit d .bit4 && decide (t = ⟨.byte2, 1⟩))) := by simp [wireD1]

/-- What WIRE.D2 adds to a frame, bit by bit (R57). -/
theorem frameBit_wireD2 (d : Digit) (p : Frame) (t : FramePos) :
    frameBit (wireD2 d p) t = (frameBit p t || (testBit d .bit1 && decide (t = ⟨.byte2, 2⟩)) ||
      (testBit d .bit2 && decide (t = ⟨.byte1, 7⟩)) || (testBit d .bit3 && decide (t = ⟨.byte1, 5⟩))) := by
  simp [wireD2]

/-- What WIRE.D3 adds to a frame, bit by bit (R58). -/
theorem frameBit_wireD3 (d : Digit) (p : Frame) (t : FramePos) :
    frameBit (wireD3 d p) t = (frameBit p t || (testBit d .bit1 && decide (t = ⟨.byte2, 4⟩)) ||
      (testBit d .bit2 && decide (t = ⟨.byte0, 4⟩)) || (testBit d .bit3 && decide (t = ⟨.byte0, 5⟩)) ||
      (testBit d .bit4 && decide (t = ⟨.byte0, 6⟩))) := by simp [wireD3]

/-- What WIRE.D4 adds to a frame, bit by bit (R59). -/
theorem frameBit_wireD4 (d : Digit) (p : Frame) (t : FramePos) :
    frameBit (wireD4 d p) t = (frameBit p t || (testBit d .bit1 && decide (t = ⟨.byte0, 2⟩)) ||
      (testBit d .bit2 && decide (t = ⟨.byte0, 1⟩)) || (testBit d .bit3 && decide (t = ⟨.byte0, 3⟩))) := by
  simp [wireD4]

/-- What WIRE.D5 adds to a frame, bit by bit (R60). -/
theorem frameBit_wireD5 (d : Digit) (p : Frame) (t : FramePos) :
    frameBit (wireD5 d p) t = (frameBit p t || (testBit d .bit1 && decide (t = ⟨.byte2, 3⟩)) ||
      (testBit d .bit2 && decide (t = ⟨.byte1, 2⟩)) || (testBit d .bit3 && decide (t = ⟨.byte1, 1⟩)) ||
      (testBit d .bit4 && decide (t = ⟨.byte0, 7⟩))) := by simp [wireD5]

/-- What WIRE.D6 adds to a frame, bit by bit (R61). -/
theorem frameBit_wireD6 (d : Digit) (p : Frame) (t : FramePos) :
    frameBit (wireD6 d p) t = (frameBit p t || (testBit d .bit1 && decide (t = ⟨.byte1, 3⟩)) ||
      (testBit d .bit2 && decide (t = ⟨.byte1, 4⟩))) := by simp [wireD6]

@[simp] theorem invertFrame_invertFrame (p : Frame) : invertFrame (invertFrame p) = p := frame_ext fun t => by simp

/-- The count of 1 bits as a sum of the 24 bits: cite this rather than unfold the recursion. -/
theorem onesCount_eq (w : Word24) : onesCount w =
    (w.getLsbD 23).toNat + ((w.getLsbD 22).toNat + ((w.getLsbD 21).toNat + ((w.getLsbD 20).toNat +
    ((w.getLsbD 19).toNat + ((w.getLsbD 18).toNat + ((w.getLsbD 17).toNat + ((w.getLsbD 16).toNat +
    ((w.getLsbD 15).toNat + ((w.getLsbD 14).toNat + ((w.getLsbD 13).toNat + ((w.getLsbD 12).toNat +
    ((w.getLsbD 11).toNat + ((w.getLsbD 10).toNat + ((w.getLsbD 9).toNat + ((w.getLsbD 8).toNat +
    ((w.getLsbD 7).toNat + ((w.getLsbD 6).toNat + ((w.getLsbD 5).toNat + ((w.getLsbD 4).toNat +
    ((w.getLsbD 3).toNat + ((w.getLsbD 2).toNat + ((w.getLsbD 1).toNat + (w.getLsbD 0).toNat)))))))))))))))))))))) :=
  rfl

/-- A digit test is a bit of the digit, counted from 1 (R8). -/
theorem testBit_eq_getLsbD (d : Digit) (n : DigitBit) : testBit d n = d.getLsbD (bitNumber n - 1) := by
  cases n <;> revert d <;> decide

/-- Two digits with the same four tests are equal (R44). -/
theorem digit_ext {d e : Digit} (h : ∀ n, testBit d n = testBit e n) : d = e := by
  have h1 := h .bit1
  have h2 := h .bit2
  have h3 := h .bit3
  have h4 := h .bit4
  simp only [testBit_eq_getLsbD, bitNumber] at h1 h2 h3 h4
  refine BitVec.eq_of_getLsbD_eq fun k hk => ?_
  match k, hk with
  | 0, _ => simpa using h1
  | 1, _ => simpa using h2
  | 2, _ => simpa using h3
  | 3, _ => simpa using h4

end Sys2Proof.Machine
end

