-- ==== Sys2Proof/Laws/Exec.lean ====
section
/-! SUPPORT. What one operation and one step answer, said once: every operation answers a next state, an operation
never changes the ports, and a step is one evaluation of the DigitSet at the ports. -/

namespace Sys2Proof.Machine

/-- What an operation hands its call. -/
def callAfter : Instr → State → Call
  | .encode d, _ => .returned (encodeFrame d)
  | .wire d, _ => .wiring (wire d)
  | .wireD1 d, s => .wiring (wireD1 d s.buffer)
  | .wireD2 d, s => .wiring (wireD2 d s.buffer)
  | .wireD3 d, s => .wiring (wireD3 d s.buffer)
  | .wireD4 d, s => .wiring (wireD4 d s.buffer)
  | .wireD5 d, s => .wiring (wireD5 d s.buffer)
  | .wireD6 d, s => .wiring (wireD6 d s.buffer)
  | .invert p, _ => .returned (invertFrame p)

/-- All that any operation can do. -/
theorem exec_eq_next (i : Instr) (s : State) : exec i s = .next (s.withCall (callAfter i s)) := by
  cases i <;> rfl

/-- The inversion of `exec_eq_next`: from an answer, what the next state is. -/
theorem exec_next_cases {i : Instr} {s t : State} (h : exec i s = .next t) : t = s.withCall (callAfter i s) := by
  rw [exec_eq_next] at h
  exact (Host.Outcome.next.inj h).symm

/-- A step is ENCODE of the DigitSet at the ports. -/
theorem step_eq_exec (s : State) : step s = exec (.encode s.ports) s := by
  simp [step, decodeWord, decodeRow, fetchWord]

/-- All that a step can do: the call returns the `W` that stands at the output. -/
theorem step_eq_next (s : State) : step s = .next (s.withCall (.returned s.w)) := by
  rw [step_eq_exec]; rfl

/-- The inversion of `step_eq_next`. -/
theorem step_next_cases {s t : State} (h : step s = .next t) : t = s.withCall (.returned s.w) := by
  rw [step_eq_next] at h
  exact (Host.Outcome.next.inj h).symm

end Sys2Proof.Machine
end

