-- ==== Sys2Proof/Laws/PerInstr.lean ====
section
/-! SUPPORT. A fact about every instruction as syntax, one lemma per constructor. -/

namespace Sys2Proof.Laws.RowFields

/-- Decoding a word as the row of `i` gives an instruction of that same row, whatever the word: no operand word of a
row is read as another row (R40, R53). -/
def Statement (i : Instr) : Prop := ∀ w : Word24, (decodeRow i.row w).row = i.row

theorem encode (d : DigitSet) : Statement (.encode d) := fun _ => rfl
theorem wire (d : DigitSet) : Statement (.wire d) := fun _ => rfl
theorem wireD1 (d : Digit) : Statement (.wireD1 d) := fun _ => rfl
theorem wireD2 (d : Digit) : Statement (.wireD2 d) := fun _ => rfl
theorem wireD3 (d : Digit) : Statement (.wireD3 d) := fun _ => rfl
theorem wireD4 (d : Digit) : Statement (.wireD4 d) := fun _ => rfl
theorem wireD5 (d : Digit) : Statement (.wireD5 d) := fun _ => rfl
theorem wireD6 (d : Digit) : Statement (.wireD6 d) := fun _ => rfl
theorem invert (p : Frame) : Statement (.invert p) := fun _ => rfl

end Sys2Proof.Laws.RowFields
end

