-- ==== Sys2Proof/Machine/Flags.lean ====
section
/-! DEFINITION. The flags: there are none. "There are no status flags, condition codes or predicates" (R20), and
every rule of R56 to R62, R67 and R68 says "Flags written: none". -/

namespace Sys2Proof.Machine

/-- The status flags of the block: the empty type (R20). -/
inductive Flag where
  deriving DecidableEq, Repr

end Sys2Proof.Machine
end

