-- ==== Sys2Proof/Tests/Slice0.lean ====
section
/-! SUPPORT. The model's own tests: the well-formedness smoke tests, every row's decoding of a word written out from
the spec's encoding, the spec's test vectors, and a witness for the hypotheses of every statement that has some.
Expected values are those of spec/95_test_vectors.md and of the rules named; the file says which of them TD gives
(S1, S2) and which are derived from the rules. -/

namespace Sys2Proof.Tests

open Sys2Proof.Machine

/-- A state inside a call: the working buffer holds arbitrary bits. -/
def busy : State := ⟨⟨⟩, ⟨⟨9, 8, 7, 6, 5, 4⟩, .wiring ⟨0x12, 0x34, 0x56⟩⟩⟩

/-- A state whose call has returned a frame, legal and not that of its ports. -/
def legal : State := ⟨⟨⟩, ⟨⟨9, 8, 7, 6, 5, 4⟩, .returned ⟨0x01, 0x03, 0x81⟩⟩⟩

/-- A state whose call holds a working buffer that is all zero. -/
def zeroed : State := ⟨⟨⟩, ⟨⟨9, 8, 7, 6, 5, 4⟩, .wiring ⟨0x00, 0x00, 0x00⟩⟩⟩

/-- A state whose call has returned a frame that is not legal, which no run reaches. -/
def illegal : State := ⟨⟨⟩, ⟨⟨9, 8, 7, 6, 5, 4⟩, .returned ⟨0x00, 0x00, 0x00⟩⟩⟩

/-! ### Well-formedness: one ill-formed term for each check -/

theorem test_wf_refuses_byte0_bit0 : Instr.wellFormed (.invert ⟨0x01, 0x00, 0x00⟩) = false := by decide
theorem test_wf_refuses_byte1_bit0 : Instr.wellFormed (.invert ⟨0x00, 0x01, 0x00⟩) = false := by decide
theorem test_wf_refuses_byte2_bit0 : Instr.wellFormed (.invert ⟨0x00, 0x00, 0x01⟩) = false := by decide
theorem test_wf_refuses_byte2_bit7 : Instr.wellFormed (.invert ⟨0x00, 0x00, 0x80⟩) = false := by decide
theorem test_wf_accepts_used_mask : Instr.wellFormed (.invert ⟨0xFE, 0xFE, 0x7E⟩) = true := by decide
theorem test_wf_refuses_hour_24 : Pseudo.wellFormed (.time 24 0 0) = false := by decide
theorem test_wf_refuses_minute_60 : Pseudo.wellFormed (.time 0 60 0) = false := by decide
theorem test_wf_refuses_second_60 : Pseudo.wellFormed (.time 0 0 60) = false := by decide

/-! ### Decoding: words written out from R43, R46 and spec/opcode_table.json -/

/-- 23:59:58 is `0x235958` (95_test_vectors.md, Program 1). -/
theorem test_decode_encode : decodeTableWord 24 0x235958 = some (.encode ⟨8, 5, 9, 5, 3, 2⟩) := by decide
theorem test_decode_wire : decodeRow .wire 0x0000D0 = .wire ⟨0, 13, 0, 0, 0, 0⟩ := by decide
theorem test_decode_wireD1 : decodeRow .wireD1 0xABCDE5 = .wireD1 5 := by decide
theorem test_decode_wireD2 : decodeRow .wireD2 0xABCD7E = .wireD2 7 := by decide
theorem test_decode_wireD3 : decodeRow .wireD3 0xABC9DE = .wireD3 9 := by decide
theorem test_decode_wireD4 : decodeRow .wireD4 0xAB3CDE = .wireD4 3 := by decide
theorem test_decode_wireD5 : decodeRow .wireD5 0xA8BCDE = .wireD5 8 := by decide
theorem test_decode_wireD6 : decodeRow .wireD6 0x2ABCDE = .wireD6 2 := by decide
/-- The frame `FF FF DF` is `F = 0xDFFFFF` (R46). -/
theorem test_decode_invert : decodeRow .invert 0xDFFFFF = .invert ⟨0xFF, 0xFF, 0xDF⟩ := by decide
theorem test_decode_short : decode [0x56, 0x34] = .error .incompleteOperandWord := by rfl
theorem test_decode_short_row : decodeTableWord 8 0x0C = some (.encode ⟨12, 0, 0, 0, 0, 0⟩) := by decide
theorem test_encode_word : encode (.encode ⟨8, 5, 9, 5, 3, 2⟩) = 0x235958 := by decide
theorem test_placed_word_runs : nextOf (step (busy.withFetchWord 24 0x123456)) =
    some ⟨⟨⟩, ⟨⟨6, 5, 4, 3, 2, 1⟩, .returned ⟨0xD9, 0x93, 0xBB⟩⟩⟩ := by decide
/-- R92: `P` and `W` are those of the placed word before any step. -/
theorem test_placed_word_shows_at_once : (busy.withFetchWord 24 0x123456).p = ⟨0x26, 0x6C, 0x44⟩ ∧
    (busy.withFetchWord 24 0x123456).w = ⟨0xD9, 0x93, 0xBB⟩ := by decide

/-! ### The rows: vectors of 40_wire.md, 41_invert_encode.md and 95_test_vectors.md -/

/-- S1. -/
theorem test_encode_zero : nextOf (exec (.encode ⟨0, 0, 0, 0, 0, 0⟩) busy) =
    some (busy.withCall (.returned ⟨0xFF, 0xFF, 0xFF⟩)) := by decide
/-- 09:47:38, section 2.4. -/
theorem test_encode_094738 : nextOf (exec (.encode ⟨8, 3, 7, 4, 9, 0⟩) busy) =
    some (busy.withCall (.returned ⟨0x47, 0x7F, 0xE1⟩)) := by decide
/-- Section 2.5, alternating bits. -/
theorem test_wire_alternating : wire ⟨5, 10, 5, 10, 5, 2⟩ = ⟨0x22, 0xD2, 0x38⟩ := by decide
/-- Section 2.6: all four unconnected bits at once. -/
theorem test_wire_unconnected : wire ⟨0, 8, 0, 8, 0, 12⟩ = ⟨0x00, 0x00, 0x00⟩ := by decide
/-- S2's bit, on a buffer that already holds bits: `0x56 | 0x20` is `0x76`. -/
theorem test_wireD1_ors : nextOf (exec (.wireD1 1) busy) = some (busy.withCall (.wiring ⟨0x12, 0x34, 0x76⟩)) := by decide
/-- R55: after a call has returned, the next starts from a zero buffer. -/
theorem test_wireD1_starts_from_zero : nextOf (exec (.wireD1 1) legal) =
    some (legal.withCall (.wiring ⟨0x00, 0x00, 0x20⟩)) := by decide
/-- R56: d1 = 13 is `00 40 22`. -/
theorem test_wireD1_13 : wireD1 13 zeroFrame = ⟨0x00, 0x40, 0x22⟩ := by decide
/-- R57: d2 = 6 is `00 A0 00`. -/
theorem test_wireD2_6 : wireD2 6 zeroFrame = ⟨0x00, 0xA0, 0x00⟩ := by decide
theorem test_wireD2_8_sets_nothing : wireD2 8 zeroFrame = zeroFrame := by decide
/-- R58: d3 = 11 is `50 00 10`. -/
theorem test_wireD3_11 : wireD3 11 zeroFrame = ⟨0x50, 0x00, 0x10⟩ := by decide
/-- R59: the crossed low bits. -/
theorem test_wireD4_1 : wireD4 1 zeroFrame = ⟨0x04, 0x00, 0x00⟩ := by decide
theorem test_wireD4_2 : wireD4 2 zeroFrame = ⟨0x02, 0x00, 0x00⟩ := by decide
/-- R60: the crossed bits 2 and 3. -/
theorem test_wireD5_2 : wireD5 2 zeroFrame = ⟨0x00, 0x04, 0x00⟩ := by decide
theorem test_wireD5_12 : wireD5 12 zeroFrame = ⟨0x80, 0x02, 0x00⟩ := by decide
/-- R61: d6 = 7 behaves as 3. -/
theorem test_wireD6_7 : wireD6 7 zeroFrame = ⟨0x00, 0x18, 0x00⟩ := by decide
/-- Section 2.3. -/
theorem test_invert : nextOf (exec (.invert ⟨0x26, 0x6C, 0x44⟩) busy) =
    some (busy.withCall (.returned ⟨0xD9, 0x93, 0xBB⟩)) := by decide

/-! ### The caller's side -/

/-- 95_test_vectors.md, Program 1, steps 1 to 3: the byte stream `B3 CB E1 B3 CB C1 FF FF FF`. -/
theorem test_day_rolls_over :
    sinkStream (evaluateAll [timeDigits 23 59 58, timeDigits 23 59 59, timeDigits 0 0 0] State.reset) =
      [0xB3, 0xCB, 0xE1, 0xB3, 0xCB, 0xC1, 0xFF, 0xFF, 0xFF] := by decide
/-- Program 4, step 2a. -/
theorem test_blank_15 : expandPseudo (.blank 15) = .encode ⟨15, 15, 15, 15, 15, 15⟩ := by decide
/-- Section 2.6: a caller's 17 is 1; by R52 the same at every port. -/
theorem test_wide_digit : digitsOfCaller 17 18 35 255 16 31 = ⟨1, 2, 3, 15, 0, 15⟩ := by decide
/-- L-f. -/
theorem test_readBack : readBack ⟨0x26, 0x6C, 0x44⟩ = ⟨6, 5, 4, 3, 2, 1⟩ := by decide
/-- L-h: 9 zero bits at 12:34:56. -/
theorem test_onesCount : onesCount (~~~(encodeFrame ⟨6, 5, 4, 3, 2, 1⟩).flat) = 9 := by decide
theorem test_reset_is_reachable_and_steps : Reachable (State.reset.present ⟨1, 0, 0, 0, 0, 0⟩) := .present _ .reset

/-! ### Witnesses: states and operands that meet the hypotheses of the statements, a witness a clause -/

theorem test_witness_StepRunsTheDecodedInstruction :
    ∃ i rest, decode (fetchBytes busy) = .ok (i, rest) ∧ i.wellFormed = true :=
  ⟨.encode ⟨9, 8, 7, 6, 5, 4⟩, [], by rfl, by rfl⟩

/-- The widest row, at its largest word. -/
theorem test_witness_PlacedWordRunsAsDecoded :
    decodeTableWord 24 0xFFFFFF = some (.encode ⟨15, 15, 15, 15, 15, 15⟩) := by decide

theorem test_witness_WireIsTheClosedForm : zeroed.buffer = ⟨0x00, 0x00, 0x00⟩ ∧ zeroed ≠ State.reset := by decide

theorem test_witness_InvertComplementsAllThreeBytes : Frame.unusedClear ⟨0xFE, 0xFE, 0x7E⟩ = true := by decide

theorem test_witness_StagesInAnyDigitOrderAreEncode :
    List.Perm [DigitName.d6, .d5, .d4, .d3, .d2, .d1] [.d1, .d2, .d3, .d4, .d5, .d6] ∧
    zeroed.buffer = ⟨0x00, 0x00, 0x00⟩ ∧ legal.buffer = ⟨0x00, 0x00, 0x00⟩ := by
  decide

theorem test_witness_BufferStartsZeroAndBitsAreOnlySet :
    (∃ t, step busy = .next t) ∧
    (∃ u v, exec (.wire ⟨9, 8, 7, 6, 5, 4⟩) busy = .next u ∧ exec (.wire ⟨9, 8, 7, 6, 5, 4⟩) State.reset = .next v) ∧
    (∃ t, exec (digitRow .d4 7) busy = .next t ∧ frameBit busy.buffer ⟨.byte2, 6⟩ = true) :=
  ⟨⟨_, rfl⟩, ⟨_, _, rfl, rfl⟩, _, rfl, by decide⟩

/-- A row for each clause, and for the last a position of the digit's own byte that is not the digit's. -/
theorem test_witness_RowsLeaveEverythingElseUnchanged :
    (∃ t, exec (.encode ⟨9, 8, 7, 6, 5, 4⟩) busy = .next t) ∧
    (∃ t, Instr.row (.wireD6 15) ≠ .encode ∧ Instr.row (.wireD6 15) ≠ .invert ∧ exec (.wireD6 15) busy = .next t) ∧
    (∃ t, exec (.invert ⟨0x26, 0x6C, 0x44⟩) busy = .next t) ∧
    (∃ t, exec (digitRow .d6 15) busy = .next t ∧ frameBit (digitPositions .d6) ⟨.byte1, 5⟩ = false) :=
  ⟨⟨_, rfl⟩, ⟨_, by decide, by decide, rfl⟩, ⟨_, rfl⟩, _, rfl, by decide⟩

theorem test_witness_EveryTableEntryIsWired :
    (⟨⟨.byte1, 4⟩, ⟨.d6, .bit2⟩⟩ : WireEntry) ∈ wiringTable ∧ (⟨.byte2, 7⟩ : FramePos) ∉ wiringTable.map (·.dst) := by
  decide

theorem test_witness_FlatIndicesAreWired :
    (0, 21) ∈ flatWiring ∧ (21, 12) ∈ flatWiring ∧ 23 ∉ flatWiring.map Prod.snd ∧ 24 ∉ flatWiring.map Prod.snd ∧
    (⟨⟨.byte0, 7⟩, ⟨.d5, .bit4⟩⟩ : WireEntry) ∈ wiringTable := by
  decide

theorem test_witness_TableLoopInAnyOrderIsWire : wiringTable.reverse.Perm wiringTable ∧ wiringTable.reverse ≠ wiringTable := by
  exact ⟨List.reverse_perm _, by decide⟩

theorem test_witness_DigitsNeverShareAPosition : DigitName.d1 ≠ .d6 ∧
    (addFrame = orFrame ∨ addFrame = xorFrame ∨ addFrame = addFrame) := ⟨by decide, .inr (.inr rfl)⟩

theorem test_witness_WireIsInvertibleOnConnectedBits :
    inRange ⟨15, 7, 15, 7, 15, 3⟩ = true ∧ inRange ⟨0, 0, 0, 0, 0, 0⟩ = true ∧ inRange ⟨0, 8, 0, 0, 0, 0⟩ = false := by decide

theorem test_witness_OutputIsActiveLow :
    (⟨⟨.byte2, 5⟩, ⟨.d1, .bit1⟩⟩ : WireEntry) ∈ wiringTable ∧ (⟨.byte2, 7⟩ : FramePos) ∈ unusedPositions := by decide

/-- Different DigitSets that agree on the connected bits: all four unconnected bits differ. -/
theorem test_witness_AgreeOnConnected :
    AgreeOnConnected ⟨9, 8, 7, 15, 5, 14⟩ ⟨9, 0, 7, 7, 5, 2⟩ ∧ (⟨9, 8, 7, 15, 5, 14⟩ : DigitSet) ≠ ⟨9, 0, 7, 7, 5, 2⟩ := by
  refine ⟨fun ⟨j, n⟩ h => ?_, by decide⟩
  revert h
  cases j <;> cases n <;> decide

theorem test_witness_DigitsAreReadThroughFourTests :
    ∀ (j : DigitName) (n : DigitBit),
      testBit (digitOf (digitsOfCaller 17 2 3 4 5 6) j) n = testBit (digitOf (digitsOfCaller 1 18 3 4 5 6) j) n := by
  intro j n
  cases j <;> cases n <;> decide

theorem test_witness_InRangeMeansUnconnectedBitsAreZero : timeDigitsInvariant ⟨9, 5, 9, 5, 3, 2⟩ = true := by decide

theorem test_witness_EachConnectedBitDrivesOnePosition :
    (⟨.d6, .bit2⟩ : InputBit) ∉ unconnectedInputs ∧ (⟨.d6, .bit3⟩ : InputBit) ∈ unconnectedInputs ∧
    ∃ t, exec (.encode ⟨9, 8, 7, 6, 5, 4⟩) busy = .next t := ⟨by decide, by decide, _, rfl⟩

theorem test_witness_EncodeObeysTheComplementLaw : (0, 21) ∈ flatWiring ∧ (21, 12) ∈ flatWiring := by decide

/-- Different states with the same ports, and an operation, for its clauses. -/
theorem test_witness_OutputFollowsTheInputsAtOnce :
    busy ≠ legal ∧ busy.ports = legal.ports ∧ (⟨⟨.byte2, 5⟩, ⟨.d1, .bit1⟩⟩ : WireEntry) ∈ wiringTable ∧
    (⟨.byte2, 7⟩ : FramePos) ∈ unusedPositions ∧ ∃ t, exec (.encode ⟨1, 0, 0, 0, 0, 0⟩) busy = .next t :=
  ⟨by decide, rfl, by decide, by decide, _, rfl⟩

/-- A step that changes the state, and a state that a step leaves as it is: its call returned `W` already. -/
theorem test_witness_StepReturnsTheOutput : (∃ t, step busy = .next t ∧ t ≠ busy) ∧
    step (State.reset.withCall (.returned ⟨0xFF, 0xFF, 0xFF⟩)) = .next (State.reset.withCall (.returned ⟨0xFF, 0xFF, 0xFF⟩)) :=
  ⟨⟨_, rfl, by decide⟩, by rfl⟩

theorem test_witness_ReturnedFrameIsImmutable : ∃ t u, step (busy.present ⟨6, 5, 4, 3, 2, 1⟩) = .next t ∧
    step (t.present ⟨1, 0, 0, 0, 0, 0⟩) = .next u := ⟨_, _, rfl, rfl⟩

theorem test_witness_EncodeForgetsWhatWasEvaluatedBefore :
    ∃ u v, exec (.encode ⟨9, 8, 7, 6, 5, 4⟩) busy = .next u ∧ exec (.encode ⟨9, 8, 7, 6, 5, 4⟩) State.reset = .next v :=
  ⟨_, _, rfl, rfl⟩

theorem test_witness_SinkTakesBytesInIndexOrder :
    ([⟨1, 0, 0, 0, 0, 0⟩, ⟨9, 8, 7, 6, 5, 4⟩] : List DigitSet)[1]? = some ⟨9, 8, 7, 6, 5, 4⟩ := by decide

/-- The first and the last second of the day. -/
theorem test_witness_timeOfDay : timeOfDay 0 0 0 = true ∧ timeOfDay 23 59 59 = true ∧ timeOfDay 24 0 0 = false := by decide

theorem test_witness_EveryTimeOfDayHasItsOwnFrame :
    timeOfDay 19 59 59 = true ∧ encodeFrame (timeDigits 19 59 59) = encodeFrame (timeDigits 19 59 59) ∧
    (⟨.byte0, 7⟩ : FramePos) ∈ wiringTable.map (·.dst) := by decide

theorem test_witness_FramesStayLegal :
    Instr.wellFormed (.invert ⟨0xFE, 0xFE, 0x7E⟩) = true ∧ legal.FramesLegal ∧
    (∃ t, exec (.invert ⟨0xFE, 0xFE, 0x7E⟩) legal = .next t) ∧ ∃ t, step legal = .next t :=
  ⟨by decide, by decide, ⟨_, rfl⟩, _, rfl⟩

theorem test_witness_FramesStayFramesOfDigits :
    Instr.wellFormed (.invert ⟨0xFE, 0xFE, 0x7E⟩) = true ∧ State.reset.FramesFromDigits ∧
    (∃ t, exec (.invert ⟨0xFE, 0xFE, 0x7E⟩) State.reset = .next t) ∧ ∃ t, step State.reset = .next t :=
  ⟨by decide, ⟨⟨⟨0, 0, 0, 0, 0, 0⟩, by decide⟩, nofun⟩, ⟨_, rfl⟩, _, rfl⟩

/-- A run that has presented and evaluated. -/
theorem test_witness_NoRunLeavesACallHalfDone : (∃ t, step busy = .next t) ∧ State.reset.CallWhole ∧
    ∃ t, t.returned = some ⟨0xFF, 0xFF, 0xDF⟩ ∧ Reachable t :=
  ⟨⟨_, rfl⟩, .inl rfl, _, by decide, .step (.present ⟨1, 0, 0, 0, 0, 0⟩ .reset) rfl⟩

theorem test_witness_StepMakesFramesLegal : ¬illegal.FramesLegal ∧ ∃ t, step illegal = .next t :=
  ⟨by decide, _, rfl⟩

end Sys2Proof.Tests
end

