-- ==== Sys2Proof/Proofs/Scope.lean ====
section
/-! The family of 00_scope.md: the numbering of digit bits (R8) and the parameters of the block (R7). -/

namespace Sys2Proof.Proofs

open Sys2Proof.Machine

/-! ### Digit bits, numbered from 1 (R8) -/

theorem bitMask_toNat (n : DigitBit) : (bitMask n).toNat = 2 ^ (bitNumber n - 1) := by
  cases n <;> rfl

/-- Counted from 0, a digit bit is one of the low four bits of a number, those that a port takes (R52). -/
theorem bitNumber_pred_lt (n : DigitBit) : bitNumber n - 1 < 4 := by
  cases n <;> decide

/-- The test of a digit bit is a test of the number the digit stands for (R8). -/
theorem testBit_eq_toNat_testBit (d : Digit) (n : DigitBit) : testBit d n = d.toNat.testBit (bitNumber n - 1) :=
  testBit_eq_getLsbD d n

/-- A port drops only bits that no test examines: the test can be made on the caller's integer itself (R8, R52). -/
theorem testBit_digitOfCaller (v : Nat) (n : DigitBit) : testBit (digitOfCaller v) n = v.testBit (bitNumber n - 1) := by
  rw [testBit_eq_getLsbD, digitOfCaller, BitVec.getLsbD_ofNat]
  simp [bitNumber_pred_lt n]

/-- A bit of a number in R8's form: shift it down, then mask with 1. -/
theorem toNat_testBit_eq_shiftRight_and (v i : Nat) : (v.testBit i).toNat = (v >>> i) &&& 1 := by
  rw [Nat.toNat_testBit, Nat.shiftRight_eq_div_pow, Nat.and_one_is_mod]

/-- Settles O9: both tests are bits of a number, and a bit of a number is a shift and a mask. -/
theorem digitBitsAreNumberedFromOne : Obligations.DigitBitsAreNumberedFromOne := by
  refine ⟨bitMask_toNat, fun d n => ?_, fun v n => ?_⟩
  · rw [testBit_eq_toNat_testBit, toNat_testBit_eq_shiftRight_and]
  · rw [testBit_digitOfCaller, toNat_testBit_eq_shiftRight_and]

/-! ### The parameters (R7) against the wiring table (R45) -/

/-- The mask `FE FE 7E` has a 1 exactly at the destinations of the table. -/
theorem frameBit_usedMask_iff (t : FramePos) :
    frameBit Config.usedMask t = true ↔ ∃ e ∈ wiringTable, e.dst = t := by
  obtain ⟨i, k⟩ := t
  cases i <;> revert k <;> decide

/-- An input bit is unconnected exactly when no entry of the table has it as its source. -/
theorem mem_unconnectedInputs_iff (b : InputBit) : b ∈ unconnectedInputs ↔ ∀ e ∈ wiringTable, e.src ≠ b := by
  obtain ⟨j, n⟩ := b
  cases j <;> cases n <;> decide

/-- Settles O50: the counts are those of the lists, and the mask and the unconnected inputs are read off the table. -/
theorem parametersMatchTheWiring : Obligations.ParametersMatchTheWiring :=
  ⟨rfl, rfl, rfl, rfl, rfl, rfl, frameBit_usedMask_iff, mem_unconnectedInputs_iff⟩

end Sys2Proof.Proofs
end

/-! The family of 10_state.md: what every operation leaves unchanged, what the wires drive, what a call returns and
what every run keeps. The wiring is read from the table of R45, which the per-digit rules build line by line. -/

namespace Sys2Proof.Proofs

open Sys2Proof.Machine

/-! ### The state and its call -/

@[simp] theorem withCall_block (s : State) (c : Call) : (s.withCall c).block = s.block := rfl

/-- An operation that hands the call what it already holds changes nothing. -/
theorem withCall_eq_self_iff (s : State) (c : Call) : s.withCall c = s ↔ s.caller.call = c :=
  ⟨fun h => by rw [← h, withCall_call], fun h => state_ext rfl h.symm⟩

theorem returned_eq_some_iff (s : State) (w : Frame) : s.returned = some w ↔ s.caller.call = .returned w := by
  unfold State.returned
  cases s.caller.call <;> simp

/-- `P` and `W` are functions of the ports (R13, R17). -/
theorem nets_eq_of_ports_eq {s t : State} (h : s.ports = t.ports) : s.p = t.p ∧ s.w = t.w := by
  simp only [State.p, State.w, h, and_self]

/-! ### What a row hands its call -/

/-- Every row but ENCODE and INVERT leaves the call inside stage WIRE. -/
theorem callAfter_eq_wiring {i : Instr} (s : State) (he : i.row ≠ .encode) (hi : i.row ≠ .invert) :
    ∃ p, callAfter i s = .wiring p := by
  cases i with
  | encode d => exact absurd rfl he
  | invert p => exact absurd rfl hi
  | _ => exact ⟨_, rfl⟩

/-- ENCODE and INVERT end the call. -/
theorem callAfter_eq_returned {i : Instr} (s : State) (h : i.row = .encode ∨ i.row = .invert) :
    ∃ w, callAfter i s = .returned w := by
  cases i with
  | encode d => exact ⟨_, rfl⟩
  | invert p => exact ⟨_, rfl⟩
  | _ => simp [Instr.row] at h

/-- A per-digit row ORs the contribution of its digit into the working buffer (R55 to R61). -/
theorem buffer_digitRow (j : DigitName) (d : Digit) (s : State) :
    (s.withCall (callAfter (digitRow j d) s)).buffer = orFrame s.buffer (contribution j d) := by
  apply frame_ext
  intro b
  cases j <;>
    simp [digitRow, callAfter, contribution, frameBit_wireD1, frameBit_wireD2, frameBit_wireD3, frameBit_wireD4,
      frameBit_wireD5, frameBit_wireD6, Bool.or_assoc]

/-- A digit contributes at the positions of its mask only (R64). -/
theorem orFrame_contribution_digitPositions (j : DigitName) (d : Digit) :
    orFrame (contribution j d) (digitPositions j) = digitPositions j := by
  cases j <;> revert d <;> decide

theorem frameBit_contribution_of_not_mem {j : DigitName} {b : FramePos} (d : Digit)
    (hb : frameBit (digitPositions j) b = false) : frameBit (contribution j d) b = false := by
  have h := congrArg (frameBit · b) (orFrame_contribution_digitPositions j d)
  simpa [hb] using h

/-- Settles O21: every row only hands its call something, and a per-digit row ORs in what lies within its mask. -/
theorem rowsLeaveEverythingElseUnchanged : Obligations.RowsLeaveEverythingElseUnchanged := by
  refine ⟨fun i s t h => ?_, fun i s t he hi h => ?_, fun i s t hr h => ?_, fun j d s t b h hb => ?_⟩ <;>
    obtain rfl := exec_next_cases h
  · simp
  · obtain ⟨p, hp⟩ := callAfter_eq_wiring s he hi
    rw [hp, returned_wiring]
  · obtain ⟨w, hw⟩ := callAfter_eq_returned s hr
    rw [hw, buffer_returned, zeroFrame]
  · rw [buffer_digitRow, frameBit_orFrame, frameBit_contribution_of_not_mem d hb, Bool.or_false]

/-! ### The wiring, read from the table -/

/-- The per-digit rules in order are the loop over the table, line by line (R45, R62, R63). -/
theorem wire_eq_wireByEntries (d : DigitSet) : wire d = wireByEntries wiringTable d := rfl

/-- The loop sets the destinations of the entries whose source is 1, and no other bit. -/
theorem frameBit_foldl_applyEntry (d : DigitSet) (t : FramePos) (table : List WireEntry) (p : Frame) :
    frameBit (table.foldl (applyEntry d) p) t = true ↔
      frameBit p t = true ∨ ∃ e ∈ table, inputBit d e.src = true ∧ t = e.dst := by
  induction table generalizing p with
  | nil => simp
  | cons e es ih =>
    rw [List.foldl_cons, ih, frameBit_applyEntry]
    simp [or_assoc]

/-- A bit of `P` is 1 exactly when the source of some entry for it is 1. -/
theorem frameBit_wire_iff (d : DigitSet) (t : FramePos) :
    frameBit (wire d) t = true ↔ ∃ e ∈ wiringTable, inputBit d e.src = true ∧ t = e.dst := by
  rw [wire_eq_wireByEntries, wireByEntries, frameBit_foldl_applyEntry]
  simp

theorem wiringTable_dst_nodup : (wiringTable.map (·.dst)).Nodup := by decide

theorem wiringTable_src_nodup : (wiringTable.map (·.src)).Nodup := by decide

/-- Each used bit of `P` is the digit bit wired to it. -/
theorem frameBit_wire_dst (d : DigitSet) {e : WireEntry} (he : e ∈ wiringTable) :
    frameBit (wire d) e.dst = inputBit d e.src := by
  rw [Bool.eq_iff_iff, frameBit_wire_iff]
  constructor
  · rintro ⟨f, hf, hsrc, hdst⟩
    rwa [List.inj_on_of_nodup_map wiringTable_dst_nodup he hf hdst]
  · exact fun h => ⟨e, he, h, rfl⟩

/-- The unused positions are the destination of no entry (R49). -/
theorem dst_ne_of_mem_unusedPositions {t : FramePos} (ht : t ∈ unusedPositions) : ∀ e ∈ wiringTable, e.dst ≠ t := by
  revert t
  decide

theorem frameBit_wire_unused (d : DigitSet) {t : FramePos} (ht : t ∈ unusedPositions) :
    frameBit (wire d) t = false := by
  rw [Bool.eq_false_iff, Ne, frameBit_wire_iff]
  rintro ⟨e, he, -, rfl⟩
  exact dst_ne_of_mem_unusedPositions ht e he rfl

/-- Each used bit of a WireFrame is the complement of the digit bit wired to it (R48). -/
theorem frameBit_encodeFrame_dst (d : DigitSet) {e : WireEntry} (he : e ∈ wiringTable) :
    frameBit (encodeFrame d) e.dst = !inputBit d e.src := by
  rw [encodeFrame, frameBit_invertFrame, frameBit_wire_dst d he]

theorem frameBit_encodeFrame_unused (d : DigitSet) {t : FramePos} (ht : t ∈ unusedPositions) :
    frameBit (encodeFrame d) t = true := by
  rw [encodeFrame, frameBit_invertFrame, frameBit_wire_unused d ht, Bool.not_false]

/-! ### What a frame says of its DigitSet -/

/-- An input bit is connected exactly when it is the source of an entry. -/
theorem not_mem_unconnectedInputs_iff (b : InputBit) : b ∉ unconnectedInputs ↔ ∃ e ∈ wiringTable, e.src = b := by
  rw [mem_unconnectedInputs_iff]
  push Not
  rfl

/-- `P` shows the 20 connected bits and nothing else (R50, R66). -/
theorem wire_eq_wire_iff (d e : DigitSet) : wire d = wire e ↔ AgreeOnConnected d e := by
  constructor
  · intro h b hb
    obtain ⟨x, hx, rfl⟩ := (not_mem_unconnectedInputs_iff b).mp hb
    rw [← frameBit_wire_dst d hx, h, frameBit_wire_dst e hx]
  · intro h
    have src_eq : ∀ x ∈ wiringTable, inputBit d x.src = inputBit e x.src := fun x hx =>
      h x.src ((not_mem_unconnectedInputs_iff _).mpr ⟨x, hx, rfl⟩)
    refine frame_ext fun t => ?_
    rw [Bool.eq_iff_iff, frameBit_wire_iff, frameBit_wire_iff]
    refine exists_congr fun x => and_congr_right fun hx => ?_
    rw [src_eq x hx]

theorem invertFrame_injective : Function.Injective invertFrame :=
  Function.LeftInverse.injective invertFrame_invertFrame

/-- The output shows the same 20 bits (R72). -/
theorem encodeFrame_eq_encodeFrame_iff (d e : DigitSet) : encodeFrame d = encodeFrame e ↔ AgreeOnConnected d e := by
  rw [encodeFrame, encodeFrame, invertFrame_injective.eq_iff, wire_eq_wire_iff]

/-- The value of one digit when a single input bit is 1. -/
def onlyBitDigit (b : InputBit) (j : DigitName) : Digit := if b.digit = j then bitMask b.bit else 0

/-- The DigitSet whose input bit `b` is 1 and whose other 23 bits are 0: it tells one input bit from all others. -/
def onlyBit (b : InputBit) : DigitSet :=
  ⟨onlyBitDigit b .d1, onlyBitDigit b .d2, onlyBitDigit b .d3, onlyBitDigit b .d4, onlyBitDigit b .d5, onlyBitDigit b .d6⟩

theorem digitOf_onlyBit (b : InputBit) (j : DigitName) : digitOf (onlyBit b) j = onlyBitDigit b j := by
  cases j <;> rfl

theorem testBit_bitMask (m n : DigitBit) : testBit (bitMask m) n = decide (m = n) := by
  cases m <;> cases n <;> rfl

theorem inputBit_onlyBit (b c : InputBit) : inputBit (onlyBit b) c = true ↔ b = c := by
  obtain ⟨j, m⟩ := b
  obtain ⟨k, n⟩ := c
  rw [inputBit, digitOf_onlyBit, onlyBitDigit]
  by_cases h : j = k
  · simp [h, testBit_bitMask]
  · simp [h, testBit]

/-- An input bit drives a frame position exactly when the table wires it there (R16, R45): the DigitSet with that bit
alone tells a position that follows it from every other. -/
theorem drives_iff_mem_wiringTable (b : InputBit) (t : FramePos) :
    (∀ d : DigitSet, frameBit (wire d) t = inputBit d b) ↔ ⟨t, b⟩ ∈ wiringTable := by
  constructor
  · intro h
    have alone : frameBit (wire (onlyBit b)) t = true := by rw [h, inputBit_onlyBit]
    obtain ⟨e, he, hsrc, rfl⟩ := (frameBit_wire_iff _ _).mp alone
    obtain rfl := (inputBit_onlyBit _ _).mp hsrc
    exact he
  · exact fun he d => frameBit_wire_dst d he

/-- Settles O35: an input bit drives the destinations of its entries, a connected one has one entry and an unconnected
one none, and a row only hands its call something. -/
theorem eachConnectedBitDrivesOnePosition : Obligations.EachConnectedBitDrivesOnePosition := by
  unfold Obligations.EachConnectedBitDrivesOnePosition
  simp only [drives_iff_mem_wiringTable]
  refine ⟨fun b hb => ?_, fun b hb => ?_, fun d e => (encodeFrame_eq_encodeFrame_iff d e).mpr, fun i s t h => ?_⟩
  · obtain ⟨e, he, rfl⟩ := (not_mem_unconnectedInputs_iff b).mp hb
    refine ⟨e.dst, he, fun t ht => ?_⟩
    exact congrArg WireEntry.dst (List.inj_on_of_nodup_map wiringTable_src_nodup ht he rfl)
  · rintro ⟨t, ht⟩
    exact (mem_unconnectedInputs_iff b).mp hb _ ht rfl
  · rw [exec_next_cases h, withCall_ports]

/-! ### One step, and what it returns -/

/-- A step has nothing to change exactly when the call has already returned the `W` of the ports. -/
theorem step_eq_self_iff (s : State) : step s = .next s ↔ s.returned = some s.w := by
  rw [step_eq_next, Host.Outcome.next.injEq, withCall_eq_self_iff, returned_eq_some_iff]

/-- Settles O38: a step returns `W` and keeps the ports, so a second step finds its own result. -/
theorem stepReturnsTheOutput : Obligations.StepReturnsTheOutput := by
  refine ⟨fun s => ⟨_, step_eq_next s, ?_⟩, step_eq_self_iff, fun s t h => ?_⟩
  · exact ⟨withCall_ports _ _, returned_returned _ _, rfl⟩
  · rw [step_eq_self_iff, step_next_cases h, returned_returned, withCall_w]

/-- Settles O51: `P` and `W` are read from the ports alone, through the table, and no row writes the ports. -/
theorem outputFollowsTheInputsAtOnce : Obligations.OutputFollowsTheInputsAtOnce := by
  refine ⟨fun s d e he => ?_, fun s t ht => ?_, fun s t h => nets_eq_of_ports_eq h, fun i s t h => ?_⟩
  · rw [present_p, present_w]
    exact ⟨frameBit_wire_dst d he, frameBit_encodeFrame_dst d he⟩
  · exact ⟨frameBit_wire_unused s.ports ht, frameBit_encodeFrame_unused s.ports ht⟩
  · rw [exec_next_cases h]
    exact ⟨withCall_p _ _, withCall_w _ _⟩

/-- Settles O52: presenting leaves the call as it is and moves `W`, and the next step returns that `W`. -/
theorem returnedFrameIsImmutable : Obligations.ReturnedFrameIsImmutable := by
  intro d e s t u ht hu
  obtain rfl := step_next_cases ht
  obtain rfl := step_next_cases hu
  simp [encodeFrame_eq_encodeFrame_iff]

/-- Settles O1: the bytes of the operand word always decode, to ENCODE of the ports, and that is what a step runs. -/
theorem stepRunsTheDecodedInstruction : Obligations.StepRunsTheDecodedInstruction := by
  have decoded (s : State) : decode (fetchBytes s) = .ok (.encode s.ports, []) := by
    simpa [fetchBytes, fetchWord] using decode_bytesOfWord (fetchWord s) []
  refine ⟨fun s i rest h _ => ?_, fun s => ⟨_, decoded s, rfl, rfl⟩⟩
  obtain ⟨rfl, rfl⟩ : Instr.encode s.ports = i ∧ [] = rest := by simpa [decoded] using h
  exact ⟨step_eq_exec s, rfl⟩

/-! ### The frames of a call -/

/-- The check of a WireFrame's constants is a check of its four unused bits (R49, R71). -/
theorem unusedSet_iff (w : Frame) : w.unusedSet = true ↔ ∀ t ∈ unusedPositions, frameBit w t = true := by
  have low_bit : ∀ b : Byte, (b &&& 0x01 == 0x01) = b.getLsbD 0 := by decide
  have outer_bits : ∀ b : Byte, (b &&& 0x81 == 0x81) = (b.getLsbD 0 && b.getLsbD 7) := by decide
  simp only [Frame.unusedSet, low_bit, outer_bits]
  simp [unusedPositions, frameBit, frameByte, and_assoc]

theorem unusedSet_encodeFrame (d : DigitSet) : (encodeFrame d).unusedSet = true :=
  (unusedSet_iff _).mpr fun _ => frameBit_encodeFrame_unused d

theorem buffer_of_callWhole {s : State} (h : s.CallWhole) : s.buffer = zeroFrame := by
  unfold State.buffer
  rcases h with h | ⟨d, h⟩ <;> rw [h]

/-- A whole call has returned nothing, or a WireFrame. -/
theorem returned_of_callWhole {s : State} (h : s.CallWhole) :
    ∀ w ∈ s.returned, ∃ d, w = encodeFrame d := by
  intro w hw
  have hcall : s.caller.call = .returned w := (returned_eq_some_iff s w).mp hw
  rcases h with h | ⟨d, h⟩ <;> rw [h] at hcall
  · cases hcall
  · exact ⟨d, (Call.returned.inj hcall).symm⟩

theorem framesLegal_of_callWhole {s : State} (h : s.CallWhole) : s.FramesLegal := by
  refine ⟨?_, fun w hw => ?_⟩
  · rw [buffer_of_callWhole h]
    decide
  · obtain ⟨d, rfl⟩ := returned_of_callWhole h w hw
    exact unusedSet_encodeFrame d

theorem wire_zero : wire ⟨0, 0, 0, 0, 0, 0⟩ = zeroFrame := by decide

theorem framesFromDigits_of_callWhole {s : State} (h : s.CallWhole) : s.FramesFromDigits :=
  ⟨⟨_, (buffer_of_callWhole h).trans wire_zero.symm⟩, returned_of_callWhole h⟩

theorem callWhole_of_step {s t : State} (h : step s = .next t) : t.CallWhole := by
  rw [step_next_cases h]
  exact .inr ⟨s.ports, rfl⟩

/-- Presenting does not touch the call. -/
theorem callWhole_present {s : State} (d : DigitSet) (h : s.CallWhole) : (s.present d).CallWhole := h

theorem callWhole_reset : State.reset.CallWhole := .inl reset_call

/-- No run leaves a call half done (R22, R32). -/
theorem callWhole_of_reachable {s : State} (h : Reachable s) : s.CallWhole := by
  induction h with
  | reset => exact callWhole_reset
  | present d _ ih => exact callWhole_present d ih
  | step _ hstep _ => exact callWhole_of_step hstep

/-- Settles O54: a step makes the call whole, presenting keeps it so, and a whole call holds no working buffer and no
frame but a WireFrame. -/
theorem noRunLeavesACallHalfDone : Obligations.NoRunLeavesACallHalfDone := by
  refine ⟨fun s t => callWhole_of_step, fun s d => callWhole_present d, fun s hs => ?_⟩
  have whole := callWhole_of_reachable hs
  exact ⟨whole, framesLegal_of_callWhole whole, buffer_of_callWhole whole⟩

/-- Settles O48: the frame a step returns is ENCODE of the ports, whatever the call held before. -/
theorem stepMakesFramesLegal : Obligations.StepMakesFramesLegal := by
  intro s t h
  refine ⟨framesLegal_of_callWhole (callWhole_of_step h), s.w, ?_, ?_, ?_⟩
  · rw [step_next_cases h, returned_returned]
  · exact fun e he => frameBit_encodeFrame_dst s.ports he
  · exact fun b hb => frameBit_encodeFrame_unused s.ports hb

/-- Settles O49: no call has been made, so it is whole, and zero ports give `FF FF FF`. -/
theorem resetIsLegalBeforeAnyCall : Obligations.ResetIsLegalBeforeAnyCall := by
  have encode_zero : encodeFrame ⟨0, 0, 0, 0, 0, 0⟩ = ⟨0xFF, 0xFF, 0xFF⟩ := by decide
  have w_reset : State.reset.w = ⟨0xFF, 0xFF, 0xFF⟩ := encode_zero
  refine ⟨framesLegal_of_callWhole callWhole_reset, framesFromDigits_of_callWhole callWhole_reset, callWhole_reset,
    reset_returned, wire_zero, w_reset, encode_zero, _, step_eq_next _, ?_⟩
  rw [returned_returned, w_reset]

end Sys2Proof.Proofs

/-! The family of 20_memory.md: the frames of a run of evaluations and the byte stream the sink takes of them. -/

namespace Sys2Proof.Proofs

open Sys2Proof.Machine

/-! ### The frames of a run -/

/-- One evaluation adds its own frame: the step before it leaves nothing that the next one reads (R35). -/
theorem evaluateAll_cons (d : DigitSet) (ds : List DigitSet) (s : State) :
    evaluateAll (d :: ds) s = encodeFrame d :: evaluateAll ds ((s.present d).withCall (.returned (encodeFrame d))) := by
  simp [evaluateAll, step_eq_next]

/-- The frames of a run do not depend on the state it starts from. -/
theorem evaluateAll_eq_map (ds : List DigitSet) (s : State) : evaluateAll ds s = ds.map encodeFrame := by
  induction ds generalizing s with
  | nil => rfl
  | cons d ds ih => rw [evaluateAll_cons, ih, List.map_cons]

/-- Settles O41: a run's frames are those of its DigitSets one by one, and the stream joins the bytes of each. -/
theorem framesFollowTheCallsInOrder : Obligations.FramesFollowTheCallsInOrder := by
  refine ⟨evaluateAll_eq_map, fun ds s => ?_⟩
  rw [evaluateAll_eq_map, sinkStream, List.flatMap_map]

/-! ### The byte stream (R28, D5) -/

@[simp] theorem length_sinkBytes (w : Frame) : (sinkBytes w).length = 3 := rfl

theorem getElem?_sinkBytes (w : Frame) (i : FrameByte) : (sinkBytes w)[byteIndex i]? = some (frameByte w i) := by
  cases i <;> rfl

theorem byteIndex_lt (i : FrameByte) : byteIndex i < 3 := by
  cases i <;> decide

theorem sinkStream_cons (w : Frame) (ws : List Frame) : sinkStream (w :: ws) = sinkBytes w ++ sinkStream ws :=
  List.flatMap_cons

theorem length_sinkStream (ws : List Frame) : (sinkStream ws).length = 3 * ws.length := by
  simp [sinkStream, List.length_flatMap, Nat.mul_comm]

/-- Byte `3n + i` of the stream is byte `i` of frame `n`, and there is none where there is no such frame. -/
theorem getElem?_sinkStream (ws : List Frame) (n : Nat) (i : FrameByte) :
    (sinkStream ws)[3 * n + byteIndex i]? = ws[n]?.map (frameByte · i) := by
  induction ws generalizing n with
  | nil => rfl
  | cons w ws ih =>
    rw [sinkStream_cons]
    cases n with
    | zero =>
      rw [List.getElem?_append_left (by simpa using byteIndex_lt i), Nat.mul_zero, Nat.zero_add, getElem?_sinkBytes]
      rfl
    | succ n =>
      have shift : 3 * (n + 1) + byteIndex i - 3 = 3 * n + byteIndex i := by omega
      rw [List.getElem?_append_right (by rw [length_sinkBytes]; omega), length_sinkBytes, shift, ih,
        List.getElem?_cons_succ]

/-- Settles O42: the stream is cut into threes, and the frames of a run are those of its DigitSets. -/
theorem sinkTakesBytesInIndexOrder : Obligations.SinkTakesBytesInIndexOrder := by
  intro ds s
  rw [evaluateAll_eq_map]
  refine ⟨by rw [length_sinkStream, List.length_map], fun n d i hd => ?_⟩
  rw [getElem?_sinkStream, List.getElem?_map, hd]
  rfl

/-! ### What the frames of a run say of its inputs -/

/-- A DigitSet is its 24 input bits. -/
theorem digitSet_ext {d e : DigitSet} (h : ∀ b, inputBit d b = inputBit e b) : d = e := by
  have digits (j : DigitName) : digitOf d j = digitOf e j := digit_ext fun n => h ⟨j, n⟩
  cases d
  cases e
  rw [DigitSet.mk.injEq]
  exact ⟨digits .d1, digits .d2, digits .d3, digits .d4, digits .d5, digits .d6⟩

/-- The masks of R50 clear the unconnected bits and keep the others. -/
theorem inputBit_connectedPart (d : DigitSet) (b : InputBit) :
    inputBit (connectedPart d) b = (decide (b ∉ unconnectedInputs) && inputBit d b) := by
  obtain ⟨j, n⟩ := b
  cases j <;> cases n <;>
    simp [inputBit, digitOf, connectedPart, unconnectedInputs, testBit_eq_getLsbD, bitNumber]

/-- The part that reaches the output says the same of a DigitSet as its 20 connected bits (R50). -/
theorem connectedPart_eq_connectedPart_iff (d e : DigitSet) :
    connectedPart d = connectedPart e ↔ AgreeOnConnected d e := by
  constructor
  · intro h b hb
    simpa [inputBit_connectedPart, hb] using congrArg (inputBit · b) h
  · intro h
    refine digitSet_ext fun b => ?_
    rw [inputBit_connectedPart, inputBit_connectedPart]
    by_cases hb : b ∈ unconnectedInputs
    · simp [hb]
    · rw [h b hb]

/-- Two lists have the same values of `f` exactly when their members do, one by one. -/
theorem map_eq_map_iff_forall₂ {α β : Type} (f : α → β) (xs ys : List α) :
    xs.map f = ys.map f ↔ List.Forall₂ (fun x y => f x = f y) xs ys := by
  rw [← List.forall₂_eq_eq_eq, List.forall₂_map_left_iff, List.forall₂_map_right_iff]

/-- Settles O43: one by one, equal frames and equal connected parts are both agreement on the connected bits. -/
theorem framesRevealExactlyTheConnectedBits : Obligations.FramesRevealExactlyTheConnectedBits := by
  intro ds es s t
  rw [evaluateAll_eq_map, evaluateAll_eq_map, map_eq_map_iff_forall₂, map_eq_map_iff_forall₂]
  simp only [encodeFrame_eq_encodeFrame_iff, connectedPart_eq_connectedPart_iff]

end Sys2Proof.Proofs

/-! The family of 30_encoding.md: the operand words and their decoding, the wiring in its three written forms, what a
digit says of itself in the frame, and the time that a frame shows. -/

namespace Sys2Proof.Proofs

open Sys2Proof.Machine

/-! ### Words and their fields (R43, R46) -/

/-- A field that holds a digit reads back as it (the one field of a row WIRE.Dj). -/
theorem extractLsb'_shiftLeft_setWidth (d : Digit) {k : Nat} (hk : k + 4 ≤ 24) :
    (d.setWidth 24 <<< k).extractLsb' k 4 = d := by
  refine BitVec.eq_of_getLsbD_eq fun i hi => ?_
  have inside : k + i < 24 := by omega
  simp [hi, inside]

@[simp] theorem flat_frameOfFlat (w : Word24) : (frameOfFlat w).flat = w := wordOfBytes_extract w

@[simp] theorem frameOfFlat_flat (p : Frame) : frameOfFlat p.flat = p := by
  obtain ⟨b0, b1, b2⟩ := p
  simp only [frameOfFlat, Frame.flat, Frame.mk.injEq]
  refine ⟨?_, ?_, ?_⟩ <;> (ext i hi; interval_cases i <;> simp)

/-- Field `j` of a packed word is the digit dj. -/
theorem digitOf_unpack (w : Word24) (j : DigitName) :
    digitOf (unpack w) j = w.extractLsb' (4 * (digitNumber j - 1)) 4 := by
  cases j <;> rfl

/-- An input bit stands in the packed word at its flat index (R43, R47). -/
theorem inputBit_unpack (w : Word24) (b : InputBit) : inputBit (unpack w) b = w.getLsbD (dsIndex b) := by
  rw [inputBit, digitOf_unpack, testBit_eq_getLsbD, BitVec.getLsbD_extractLsb', dsIndex]
  simp [bitNumber_pred_lt]

theorem getLsbD_pack (d : DigitSet) (b : InputBit) : (pack d).getLsbD (dsIndex b) = inputBit d b := by
  rw [← inputBit_unpack, unpack_pack]

/-- Byte `i` of a flat word. -/
theorem frameByte_frameOfFlat (w : Word24) (i : FrameByte) :
    frameByte (frameOfFlat w) i = w.extractLsb' (8 * byteIndex i) 8 := by
  cases i <;> rfl

/-- A frame bit stands in the flat word at its flat index (R46). -/
theorem getLsbD_flat (p : Frame) (t : FramePos) : p.flat.getLsbD (frameIndex t) = frameBit p t := by
  conv_rhs => rw [← frameOfFlat_flat p, frameBit, frameByte_frameOfFlat, BitVec.getLsbD_extractLsb']
  simp [frameIndex]

/-- A word is the weighted sum of its six digits. -/
theorem toNat_eq_sum_unpack (w : Word24) :
    w.toNat = (unpack w).d6.toNat * 2 ^ 20 + (unpack w).d5.toNat * 2 ^ 16 + (unpack w).d4.toNat * 2 ^ 12 +
      (unpack w).d3.toNat * 2 ^ 8 + (unpack w).d2.toNat * 2 ^ 4 + (unpack w).d1.toNat := by
  have bound : w.toNat < 2 ^ 24 := w.isLt
  simp only [unpack, BitVec.extractLsb'_toNat, Nat.shiftRight_eq_div_pow]
  omega

/-- A word is the weighted sum of its three bytes. -/
theorem toNat_eq_sum_frameOfFlat (w : Word24) :
    w.toNat = (frameOfFlat w).b2.toNat * 2 ^ 16 + (frameOfFlat w).b1.toNat * 2 ^ 8 + (frameOfFlat w).b0.toNat := by
  have bound : w.toNat < 2 ^ 24 := w.isLt
  simp only [frameOfFlat, BitVec.extractLsb'_toNat, Nat.shiftRight_eq_div_pow]
  omega

theorem toNat_flat (p : Frame) : p.flat.toNat = p.b2.toNat * 2 ^ 16 + p.b1.toNat * 2 ^ 8 + p.b0.toNat := by
  rw [toNat_eq_sum_frameOfFlat, frameOfFlat_flat]

/-! ### Decoding and encoding -/

/-- Settles O5: each row reads its operand from where `encode` puts it. -/
theorem rowDecodeOfEncodeIsIdentity : Obligations.RowDecodeOfEncodeIsIdentity := by
  refine ⟨fun i => ?_, fun d rest => ?_⟩
  · cases i with
    | encode d => exact congrArg Instr.encode (unpack_pack d)
    | wire d => exact congrArg Instr.wire (unpack_pack d)
    | wireD1 d =>
      have unshifted := extractLsb'_shiftLeft_setWidth (k := 0) d (by decide)
      exact congrArg Instr.wireD1 (by simpa [encode] using unshifted)
    | wireD2 d => exact congrArg Instr.wireD2 (extractLsb'_shiftLeft_setWidth d (by decide))
    | wireD3 d => exact congrArg Instr.wireD3 (extractLsb'_shiftLeft_setWidth d (by decide))
    | wireD4 d => exact congrArg Instr.wireD4 (extractLsb'_shiftLeft_setWidth d (by decide))
    | wireD5 d => exact congrArg Instr.wireD5 (extractLsb'_shiftLeft_setWidth d (by decide))
    | wireD6 d => exact congrArg Instr.wireD6 (extractLsb'_shiftLeft_setWidth d (by decide))
    | invert p => exact congrArg Instr.invert (frameOfFlat_flat p)
  · rw [encodeBytes, encode, decode_bytesOfWord, unpack_pack]

/-- Settles O6: the rows that read the whole word lose nothing of it. -/
theorem encodeOfDecodedWordIsIdentity : Obligations.EncodeOfDecodedWordIsIdentity :=
  fun w => ⟨pack_unpack w, pack_unpack w, flat_frameOfFlat w⟩

/-- Settles O4: four fixed words, evaluated. -/
theorem writtenOutWordsDecode : Obligations.WrittenOutWordsDecode := by
  refine ⟨rfl, ?_, ?_, ?_⟩ <;> decide

/-- Settles O7: a word is its six fields, so a packed DigitSet is read field by field. -/
theorem packedWordPlacesEveryDigitBit : Obligations.PackedWordPlacesEveryDigitBit := by
  refine ⟨getLsbD_pack, fun d => ?_, by decide⟩
  rw [toNat_eq_sum_unpack, unpack_pack]

/-- Settles O8: a word is its three bytes, so a flat frame is read byte by byte. -/
theorem flatWordPlacesEveryFrameBit : Obligations.FlatWordPlacesEveryFrameBit :=
  ⟨fun p i k => getLsbD_flat p ⟨i, k⟩, toNat_flat, by decide⟩

/-- Decoding refuses the sequences of fewer than three bytes and no other (R53). -/
theorem decode_eq_error_iff (bytes : List Byte) :
    decode bytes = .error .incompleteOperandWord ↔ bytes.length < 3 := by
  match bytes with
  | [] => simp [decode]
  | [_] => simp [decode]
  | [_, _] => simp [decode]
  | _ :: _ :: _ :: rest => simp [decode]

/-- Settles O3: three bytes are a word, every word selects ENCODE, and no operation refuses. -/
theorem everyOperandWordIsLegal : Obligations.EveryOperandWordIsLegal := by
  refine ⟨fun b0 b1 b2 rest => ⟨unpack (wordOfBytes b0 b1 b2), rfl, ?_⟩, decode_eq_error_iff, fun w s => ?_⟩
  · rw [pack_unpack]
    exact toNat_flat ⟨b0, b1, b2⟩
  · exact ⟨_, exec_eq_next _ s, step_eq_next _⟩

/-- The first three bytes of a number are those of the operand word it gives. -/
theorem bytesOfNat_add_three (v k : Nat) :
    bytesOfNat v (k + 3) = bytesOfWord (BitVec.ofNat 24 v) ++ bytesOfNat (v / 256 / 256 / 256) k := by
  simp only [bytesOfNat, bytesOfWord, List.cons_append, List.nil_append, List.cons.injEq, and_true]
  refine ⟨?_, ?_, ?_⟩ <;> apply BitVec.eq_of_toNat_eq <;>
    simp only [BitVec.toNat_ofNat, BitVec.extractLsb'_toNat, Nat.shiftRight_eq_div_pow] <;> omega

/-- A word that decodes has three bytes, and it is the ENCODE they stand for. -/
theorem decodeTableWord_cases {nbits w : Nat} {i : Instr} (h : decodeTableWord nbits w = some i) :
    i = .encode (unpack (BitVec.ofNat 24 (w % 2 ^ nbits))) := by
  obtain ⟨k, hk⟩ : ∃ k, max 3 ((nbits + 7) / 8) = k + 3 :=
    ⟨_, (Nat.sub_add_cancel (Nat.le_max_left _ _)).symm⟩
  rw [decodeTableWord, hk, bytesOfNat_add_three, decode_bytesOfWord] at h
  cases k with
  | zero => exact (Option.some.inj h).symm
  | succ k => cases h

/-- Settles O2: the placed word drives the ports, a step runs ENCODE of the ports, and `W` follows them at once. -/
theorem placedWordRunsAsDecoded : Obligations.PlacedWordRunsAsDecoded := by
  intro s nbits w i h
  obtain rfl := decodeTableWord_cases h
  refine ⟨step_eq_exec _, rfl, fun e he => ?_, present_call _ _⟩
  exact frameBit_encodeFrame_dst _ he

/-! ### Unused positions (R49, R71) -/

/-- The check of a working buffer's constants is a check of its four unused bits. -/
theorem unusedClear_iff (p : Frame) : p.unusedClear = true ↔ ∀ t ∈ unusedPositions, frameBit p t = false := by
  have low_bit : ∀ b : Byte, (b &&& 0x01 == 0) = !b.getLsbD 0 := by decide
  have outer_bits : ∀ b : Byte, (b &&& 0x81 == 0) = (!b.getLsbD 0 && !b.getLsbD 7) := by decide
  simp only [Frame.unusedClear, low_bit, outer_bits]
  simp [unusedPositions, frameBit, frameByte, and_assoc]

theorem unusedClear_wire (d : DigitSet) : (wire d).unusedClear = true :=
  (unusedClear_iff _).mpr fun _ => frameBit_wire_unused d

theorem unusedSet_invertFrame (p : Frame) : (invertFrame p).unusedSet = true ↔ p.unusedClear = true := by
  simp [unusedSet_iff, unusedClear_iff]

theorem unusedClear_orFrame {p q : Frame} (hp : p.unusedClear = true) (hq : q.unusedClear = true) :
    (orFrame p q).unusedClear = true := by
  rw [unusedClear_iff] at *
  intro t ht
  rw [frameBit_orFrame, hp t ht, hq t ht, Bool.or_false]

/-- No digit has an unused position among its own (R49, R64). -/
theorem unusedClear_digitPositions (j : DigitName) : (digitPositions j).unusedClear = true := by
  cases j <;> decide

theorem unusedClear_contribution (j : DigitName) (d : Digit) : (contribution j d).unusedClear = true := by
  have positions := (unusedClear_iff _).mp (unusedClear_digitPositions j)
  exact (unusedClear_iff _).mpr fun t ht => frameBit_contribution_of_not_mem d (positions t ht)

/-- A call inside stage WIRE is legal when its buffer is. -/
theorem framesLegal_wiring (s : State) (p : Frame) :
    (s.withCall (.wiring p)).FramesLegal ↔ p.unusedClear = true := by
  simp [State.FramesLegal]

/-- A call that has returned is legal when its frame is: no buffer is left. -/
theorem framesLegal_returned (s : State) (w : Frame) :
    (s.withCall (.returned w)).FramesLegal ↔ w.unusedSet = true := by
  have zero_clear : zeroFrame.unusedClear = true := by decide
  simp [State.FramesLegal, zero_clear]

/-- A per-digit row only adds its digit's contribution to the buffer. -/
theorem framesLegal_digitRow (j : DigitName) (d : Digit) {s : State} (h : s.FramesLegal) :
    (s.withCall (callAfter (digitRow j d) s)).FramesLegal := by
  obtain ⟨p, hp⟩ : ∃ p, callAfter (digitRow j d) s = .wiring p := by cases j <;> exact ⟨_, rfl⟩
  have buffer_eq := buffer_digitRow j d s
  rw [hp, buffer_wiring] at buffer_eq
  rw [hp, framesLegal_wiring, buffer_eq]
  exact unusedClear_orFrame h.left (unusedClear_contribution j d)

theorem framesLegal_withCall_callAfter {i : Instr} {s : State} (hi : i.wellFormed = true) (h : s.FramesLegal) :
    (s.withCall (callAfter i s)).FramesLegal := by
  cases i with
  | encode d => exact (framesLegal_returned _ _).mpr (unusedSet_encodeFrame d)
  | wire d => exact (framesLegal_wiring _ _).mpr (unusedClear_wire d)
  | wireD1 d => exact framesLegal_digitRow .d1 d h
  | wireD2 d => exact framesLegal_digitRow .d2 d h
  | wireD3 d => exact framesLegal_digitRow .d3 d h
  | wireD4 d => exact framesLegal_digitRow .d4 d h
  | wireD5 d => exact framesLegal_digitRow .d5 d h
  | wireD6 d => exact framesLegal_digitRow .d6 d h
  | invert p => exact (framesLegal_returned _ _).mpr ((unusedSet_invertFrame p).mpr hi)

/-- Settles O47: a row ORs legal bits into the buffer, replaces it or returns a WireFrame; a step returns a WireFrame
whatever it found; presenting leaves the call alone. -/
theorem framesStayLegal : Obligations.FramesStayLegal := by
  refine ⟨fun i s t hi hs h => ?_, fun s t _ h => framesLegal_of_callWhole (callWhole_of_step h), fun s d hs => hs⟩
  rw [exec_next_cases h]
  exact framesLegal_withCall_callAfter hi hs

/-- The unused positions are exactly those that no entry has as its destination. -/
theorem mem_unusedPositions_iff (t : FramePos) : t ∈ unusedPositions ↔ t ∉ wiringTable.map (·.dst) := by
  obtain ⟨i, k⟩ := t
  cases i <;> revert k <;> decide

/-! ### The wiring, written as a table and as flat indices (R45, R47) -/

/-- Settles O22: the counts are those of the list, and each position is an entry's destination or unused. -/
theorem everyTableEntryIsWired : Obligations.EveryTableEntryIsWired :=
  ⟨rfl, wiringTable_dst_nodup, wiringTable_src_nodup, fun d _ => frameBit_wire_dst d,
    fun d t ht => frameBit_wire_unused d ((mem_unusedPositions_iff t).mpr ht)⟩

/-- The flat pairs are the entries of the table, in another order. -/
theorem mem_flatWiring_iff (s t : Nat) :
    (s, t) ∈ flatWiring ↔ ∃ e ∈ wiringTable, dsIndex e.src = s ∧ frameIndex e.dst = t := by
  have perm : flatWiring.Perm (wiringTable.map fun e => (dsIndex e.src, frameIndex e.dst)) := by decide
  rw [perm.mem_iff]
  simp

/-- Each of the 24 flat indices is that of a frame position. -/
theorem exists_frameIndex_eq {t : Nat} (ht : t < 24) : ∃ b : FramePos, frameIndex b = t := by
  obtain h | h | h : t / 8 = 0 ∨ t / 8 = 1 ∨ t / 8 = 2 := by omega
  · exact ⟨⟨.byte0, ⟨t % 8, Nat.mod_lt _ (by decide)⟩⟩, by simp only [frameIndex, byteIndex]; omega⟩
  · exact ⟨⟨.byte1, ⟨t % 8, Nat.mod_lt _ (by decide)⟩⟩, by simp only [frameIndex, byteIndex]; omega⟩
  · exact ⟨⟨.byte2, ⟨t % 8, Nat.mod_lt _ (by decide)⟩⟩, by simp only [frameIndex, byteIndex]; omega⟩

/-- A listed bit of the flat frame is the operand bit paired with it. -/
theorem getLsbD_flat_wire {s t : Nat} (w : Word24) (h : (s, t) ∈ flatWiring) :
    (wire (unpack w)).flat.getLsbD t = w.getLsbD s := by
  obtain ⟨e, he, rfl, rfl⟩ := (mem_flatWiring_iff s t).mp h
  rw [getLsbD_flat, frameBit_wire_dst _ he, inputBit_unpack]

/-- Every other bit of the flat frame is 0: within the frame it is an unused position. -/
theorem getLsbD_flat_wire_of_not_mem {t : Nat} (w : Word24) (h : t ∉ flatWiring.map Prod.snd) :
    (wire (unpack w)).flat.getLsbD t = false := by
  by_cases ht : t < 24
  · obtain ⟨b, rfl⟩ := exists_frameIndex_eq ht
    rw [getLsbD_flat]
    refine frameBit_wire_unused _ ((mem_unusedPositions_iff b).mpr fun hb => h ?_)
    obtain ⟨e, he, rfl⟩ := List.mem_map.mp hb
    exact List.mem_map.mpr ⟨_, (mem_flatWiring_iff _ _).mpr ⟨e, he, rfl, rfl⟩, rfl⟩
  · exact BitVec.getLsbD_of_ge _ _ (by omega)

/-- Settles O23: the flat pairs are the table's entries, and the lists of indices are read off them. -/
theorem flatIndicesAreWired : Obligations.FlatIndicesAreWired :=
  ⟨fun w _ _ => getLsbD_flat_wire w, fun w _ => getLsbD_flat_wire_of_not_mem w, by decide, by decide, by decide,
    by decide, fun e he => (mem_flatWiring_iff _ _).mpr ⟨e, he, rfl, rfl⟩⟩

/-! ### The output (R48, R75) -/

/-- Settles O28: inverting complements every bit, and undoes itself. -/
theorem outputIsActiveLow : Obligations.OutputIsActiveLow := by
  refine ⟨frameBit_invertFrame, fun d e he => ⟨?_, ?_⟩, fun d t => frameBit_encodeFrame_unused d⟩
  · rw [frameBit_encodeFrame_dst d he, Bool.not_eq_false']
  · rw [encodeFrame, invertFrame_invertFrame, frameBit_wire_dst d he]

/-! ### DigitSets from their bits, and reading a frame back (R66) -/

@[simp] theorem testBit_digitOfBits (x1 x2 x3 x4 : Bool) :
    testBit (digitOfBits x1 x2 x3 x4) .bit1 = x1 ∧ testBit (digitOfBits x1 x2 x3 x4) .bit2 = x2 ∧
    testBit (digitOfBits x1 x2 x3 x4) .bit3 = x3 ∧ testBit (digitOfBits x1 x2 x3 x4) .bit4 = x4 := by
  revert x1 x2 x3 x4
  decide

/-- Reading a frame back takes the source of each entry from its destination. -/
theorem inputBit_readBack_src (p : Frame) {e : WireEntry} (he : e ∈ wiringTable) :
    inputBit (readBack p) e.src = frameBit p e.dst := by
  revert e
  simp [wiringTable, inputBit, digitOf, readBack]

theorem inputBit_readBack_unconnected (p : Frame) {b : InputBit} (hb : b ∈ unconnectedInputs) :
    inputBit (readBack p) b = false := by
  revert b
  simp [unconnectedInputs, inputBit, digitOf, readBack]

/-- What is read back from the frame of a DigitSet is the part of it that reaches the output. -/
theorem readBack_wire (d : DigitSet) : readBack (wire d) = connectedPart d := by
  refine digitSet_ext fun b => ?_
  rw [inputBit_connectedPart]
  by_cases hb : b ∈ unconnectedInputs
  · simp [hb, inputBit_readBack_unconnected]
  · obtain ⟨e, he, rfl⟩ := (not_mem_unconnectedInputs_iff b).mp hb
    simp [hb, inputBit_readBack_src _ he, frameBit_wire_dst d he]

/-- The same from a complemented WireFrame (R72). -/
theorem readBack_invertFrame_encodeFrame (d : DigitSet) :
    readBack (invertFrame (encodeFrame d)) = connectedPart d := by
  rw [encodeFrame, invertFrame_invertFrame, readBack_wire]

/-- The DigitSet with given input bits. -/
def digitSetOfBits (f : InputBit → Bool) : DigitSet where
  d1 := digitOfBits (f ⟨.d1, .bit1⟩) (f ⟨.d1, .bit2⟩) (f ⟨.d1, .bit3⟩) (f ⟨.d1, .bit4⟩)
  d2 := digitOfBits (f ⟨.d2, .bit1⟩) (f ⟨.d2, .bit2⟩) (f ⟨.d2, .bit3⟩) (f ⟨.d2, .bit4⟩)
  d3 := digitOfBits (f ⟨.d3, .bit1⟩) (f ⟨.d3, .bit2⟩) (f ⟨.d3, .bit3⟩) (f ⟨.d3, .bit4⟩)
  d4 := digitOfBits (f ⟨.d4, .bit1⟩) (f ⟨.d4, .bit2⟩) (f ⟨.d4, .bit3⟩) (f ⟨.d4, .bit4⟩)
  d5 := digitOfBits (f ⟨.d5, .bit1⟩) (f ⟨.d5, .bit2⟩) (f ⟨.d5, .bit3⟩) (f ⟨.d5, .bit4⟩)
  d6 := digitOfBits (f ⟨.d6, .bit1⟩) (f ⟨.d6, .bit2⟩) (f ⟨.d6, .bit3⟩) (f ⟨.d6, .bit4⟩)

theorem inputBit_digitSetOfBits (f : InputBit → Bool) (b : InputBit) : inputBit (digitSetOfBits f) b = f b := by
  obtain ⟨j, n⟩ := b
  cases j <;> cases n <;> simp [inputBit, digitOf, digitSetOfBits]

/-! ### The number of frames (R49, R66) -/

/-- No two lines of the table have the same source. -/
theorem wiringTable_src_injective : Function.Injective fun i => (wiringTable.get i).src := fun i j h =>
  List.nodup_iff_injective_get.mp (List.Nodup.of_map _ wiringTable_src_nodup)
    (List.inj_on_of_nodup_map wiringTable_src_nodup (List.get_mem _ i) (List.get_mem _ j) h)

/-- The sources of the table can take any values, line by line. -/
theorem exists_inputBit_src_eq (g : Fin wiringTable.length → Bool) :
    ∃ d : DigitSet, ∀ i, inputBit d (wiringTable.get i).src = g i :=
  ⟨digitSetOfBits (Function.extend (fun i => (wiringTable.get i).src) g fun _ => false), fun i =>
    (inputBit_digitSetOfBits _ _).trans (wiringTable_src_injective.extend_apply g _ i)⟩

/-- The used bits of a frame, in the order of the table's lines. -/
def usedBits (p : Frame) (i : Fin wiringTable.length) : Bool := frameBit p (wiringTable.get i).dst

theorem usedBits_wire (d : DigitSet) (i : Fin wiringTable.length) :
    usedBits (wire d) i = inputBit d (wiringTable.get i).src :=
  frameBit_wire_dst d (List.get_mem _ i)

/-- A frame of WIRE is its 20 used bits, and these can take any values. -/
theorem usedBits_bijective : Function.Bijective fun p : { p : Frame // ∃ d, wire d = p } => usedBits p.1 := by
  constructor
  · rintro ⟨_, d, rfl⟩ ⟨_, e, rfl⟩ h
    refine Subtype.ext ((wire_eq_wire_iff d e).mpr fun b hb => ?_)
    obtain ⟨x, hx, rfl⟩ := (not_mem_unconnectedInputs_iff b).mp hb
    obtain ⟨i, rfl⟩ := List.mem_iff_get.mp hx
    rw [← usedBits_wire, ← usedBits_wire]
    exact congrFun h i
  · intro g
    obtain ⟨d, hd⟩ := exists_inputBit_src_eq g
    exact ⟨⟨wire d, d, rfl⟩, funext fun i => (usedBits_wire d i).trans (hd i)⟩

theorem card_wire : Nat.card { p : Frame // ∃ d, wire d = p } = 2 ^ 20 := by
  rw [Nat.card_eq_of_bijective _ usedBits_bijective, Nat.card_fun]
  simp [wiringTable]

/-- There are as many WireFrames as frames of WIRE: each is the complement of one. -/
theorem card_encodeFrame : Nat.card { w : Frame // ∃ d, encodeFrame d = w } = 2 ^ 20 := by
  rw [← card_wire]
  have involutive : Function.Involutive invertFrame := invertFrame_invertFrame
  refine Nat.card_congr (involutive.toPerm.subtypeEquiv fun w => exists_congr fun d => ?_)
  rw [involutive.coe_toPerm, ← invertFrame_injective.eq_iff, encodeFrame, invertFrame_invertFrame]

/-- Settles O29: the checks of the constants hold bit by bit, and one bit of 20 is free at each used position. -/
theorem unusedPositionsAreFixed : Obligations.UnusedPositionsAreFixed := by
  refine ⟨fun d => ?_, mem_unusedPositions_iff, card_encodeFrame⟩
  have wire_bytes := unusedClear_wire d
  have encode_bytes := unusedSet_encodeFrame d
  simp only [Frame.unusedClear, Frame.unusedSet, Bool.and_eq_true, beq_iff_eq, and_assoc] at wire_bytes encode_bytes
  have uninverted : ~~~(encodeFrame d).b0 = (wire d).b0 ∧ ~~~(encodeFrame d).b1 = (wire d).b1 ∧
      ~~~(encodeFrame d).b2 = (wire d).b2 := ⟨BitVec.not_not, BitVec.not_not, BitVec.not_not⟩
  obtain ⟨p0, p1, p2⟩ := wire_bytes
  obtain ⟨w0, w1, w2⟩ := encode_bytes
  obtain ⟨n0, n1, n2⟩ := uninverted
  rw [n0, n1, n2]
  exact ⟨p0, p1, p2, w0, w1, w2, p0, p1, p2⟩

/-! ### Digits out of range, and the bits a port drops (R42, R44, R50 to R52) -/

theorem agreeOnConnected_connectedPart (d : DigitSet) : AgreeOnConnected d (connectedPart d) := fun b hb => by
  simp [inputBit_connectedPart, hb]

/-- Settles O30: agreement on the connected bits is all that `P` and `W` show. -/
theorem unconnectedBitsNeverReachTheFrame : Obligations.UnconnectedBitsNeverReachTheFrame :=
  ⟨fun d e h => ⟨(wire_eq_wire_iff d e).mpr h, (encodeFrame_eq_encodeFrame_iff d e).mpr h⟩,
    fun d => (encodeFrame_eq_encodeFrame_iff _ _).mpr (agreeOnConnected_connectedPart d)⟩

/-- DigitSets with the same connected part have the same WireFrame (R50). -/
theorem encodeFrame_eq_of_connectedPart_eq {d e : DigitSet} (h : connectedPart d = connectedPart e) :
    encodeFrame d = encodeFrame e :=
  (encodeFrame_eq_encodeFrame_iff d e).mpr ((connectedPart_eq_connectedPart_iff d e).mp h)

/-- Settles O31: masking a digit once or twice is the same connected part, and d1, d3 and d5 are wholly connected. -/
theorem outOfRangeDigitsEncodeTheirBits : Obligations.OutOfRangeDigitsEncodeTheirBits := by
  refine ⟨fun d s => ⟨_, exec_eq_next _ s, rfl⟩, fun d v => ?_, fun d => ?_, fun d => ?_⟩
  · refine ⟨?_, ?_, ?_⟩ <;> apply encodeFrame_eq_of_connectedPart_eq <;> simp [connectedPart, BitVec.and_assoc]
  · exact encodeFrame_eq_of_connectedPart_eq (by simp [connectedPart])
  · rw [readBack_invertFrame_encodeFrame]
    exact ⟨rfl, rfl, rfl⟩

/-- A port takes the low four bits of a caller's integer. -/
theorem toNat_digitOfCaller (n : Nat) : (digitOfCaller n).toNat = n &&& 15 :=
  (Nat.and_two_pow_sub_one_eq_mod n 4).symm

theorem digitOfCaller_and_15 (n : Nat) : digitOfCaller (n &&& 15) = digitOfCaller n := by
  apply BitVec.eq_of_toNat_eq
  rw [toNat_digitOfCaller, toNat_digitOfCaller, Nat.and_assoc, Nat.and_self]

/-- Settles O32: the digits at the ports are the same with and without the higher bits. -/
theorem bitsAboveBitFourAreIgnored : Obligations.BitsAboveBitFourAreIgnored := by
  intro n1 n2 n3 n4 n5 n6
  refine ⟨?_, toNat_digitOfCaller _, toNat_digitOfCaller _, toNat_digitOfCaller _, toNat_digitOfCaller _,
    toNat_digitOfCaller _, toNat_digitOfCaller _⟩
  simp only [digitsOfCaller, digitOfCaller_and_15]

/-- A test of a caller's integer is a test with the bit's mask (R44, R52). -/
theorem testBit_digitOfCaller_iff (v : Nat) (n : DigitBit) :
    testBit (digitOfCaller v) n = true ↔ v &&& (bitMask n).toNat ≠ 0 := by
  rw [testBit_digitOfCaller, bitMask_toNat, Nat.and_two_pow]
  simp

/-- Settles O33: the four tests of each digit are all its bits, and the table copies them. -/
theorem digitsAreReadThroughFourTests : Obligations.DigitsAreReadThroughFourTests := by
  refine ⟨testBit_digitOfCaller_iff, fun d e h => ?_, fun d e => frameBit_wire_dst d⟩
  obtain rfl : d = e := digitSet_ext fun b => h b.digit b.bit
  exact ⟨rfl, rfl⟩

/-- The bound on d2 and d4 is that their unconnected bit is 0 (R42). -/
theorem digit_le_seven_iff (d : Digit) : d.toNat ≤ 7 ↔ testBit d .bit4 = false := by
  revert d
  decide

/-- The bound on d6 is that its two unconnected bits are 0 (R42). -/
theorem digit_le_three_iff (d : Digit) : d.toNat ≤ 3 ↔ testBit d .bit3 = false ∧ testBit d .bit4 = false := by
  revert d
  decide

theorem digit_le_fifteen (d : Digit) : d.toNat ≤ 15 := Nat.le_of_lt_succ d.isLt

theorem inRange_iff (d : DigitSet) : inRange d = true ↔ ∀ b ∈ unconnectedInputs, inputBit d b = false := by
  simp [inRange, unconnectedInputs, inputBit, digitOf, digit_le_fifteen, digit_le_seven_iff, digit_le_three_iff,
    and_assoc]

theorem inRange_of_timeDigitsInvariant {d : DigitSet} (h : timeDigitsInvariant d = true) : inRange d = true := by
  simp only [timeDigitsInvariant, inRange, Bool.and_eq_true, decide_eq_true_eq] at *
  omega

/-- Settles O34: the ranges of R42 bound a digit exactly where some of its bits are unconnected. -/
theorem inRangeMeansUnconnectedBitsAreZero : Obligations.InRangeMeansUnconnectedBitsAreZero := by
  refine ⟨fun d => ?_, inRange_iff, fun d => inRange_of_timeDigitsInvariant⟩
  rw [← inRange_iff]
  simp [inRange, and_assoc]

/-! ### The time a frame shows (R72, R85) -/

theorem connectedPart_of_inRange {d : DigitSet} (h : inRange d = true) : connectedPart d = d := by
  refine digitSet_ext fun b => ?_
  rw [inputBit_connectedPart]
  by_cases hb : b ∈ unconnectedInputs
  · simp [hb, (inRange_iff d).mp h b hb]
  · simp [hb]

/-- The digits of a time of day are its tens and units: none of them loses a bit at its port. -/
theorem toNat_timeDigits {hh mm ss : Nat} (h : timeOfDay hh mm ss = true) :
    (timeDigits hh mm ss).d1.toNat = ss % 10 ∧ (timeDigits hh mm ss).d2.toNat = ss / 10 ∧
    (timeDigits hh mm ss).d3.toNat = mm % 10 ∧ (timeDigits hh mm ss).d4.toNat = mm / 10 ∧
    (timeDigits hh mm ss).d5.toNat = hh % 10 ∧ (timeDigits hh mm ss).d6.toNat = hh / 10 := by
  simp only [timeOfDay, Bool.and_eq_true, decide_eq_true_eq] at h
  simp only [timeDigits, digitsOfCaller, digitOfCaller, BitVec.toNat_ofNat]
  omega

theorem inRange_timeDigits {hh mm ss : Nat} (h : timeOfDay hh mm ss = true) : inRange (timeDigits hh mm ss) = true := by
  obtain ⟨d1, d2, d3, d4, d5, d6⟩ := toNat_timeDigits h
  simp only [timeOfDay, Bool.and_eq_true, decide_eq_true_eq] at h
  simp only [inRange, d1, d2, d3, d4, d5, d6, Bool.and_eq_true, decide_eq_true_eq]
  omega

/-- Settles O46: a step returns `W` of the digits, which are in range, so all of them are read back. -/
theorem frameOfATimeReadsBackToTheTime : Obligations.FrameOfATimeReadsBackToTheTime := by
  intro hh mm ss s h
  obtain ⟨d1, d2, d3, d4, d5, d6⟩ := toNat_timeDigits h
  refine ⟨_, encodeFrame (timeDigits hh mm ss), step_eq_next _, rfl, ?_⟩
  rw [readBack_invertFrame_encodeFrame, connectedPart_of_inRange (inRange_timeDigits h), d1, d2, d3, d4, d5, d6]
  omega

end Sys2Proof.Proofs

/-! The family of 40_wire.md: the frames that WIRE can build, what each per-digit rule adds to the working buffer, the
orders in which the rules and the table can be run, and the bitwise laws of the wiring. -/

namespace Sys2Proof.Proofs

open Sys2Proof.Machine

/-! ### The frames of DigitSets (R66) -/

/-- A frame position is unused or the destination of an entry. -/
theorem mem_unusedPositions_or_dst (t : FramePos) : t ∈ unusedPositions ∨ ∃ e ∈ wiringTable, e.dst = t := by
  rw [mem_unusedPositions_iff, ← List.mem_map]
  exact (em _).symm

/-- WIRE undoes the reading back of a frame whose unused positions are 0. -/
theorem wire_readBack {p : Frame} (hp : p.unusedClear = true) : wire (readBack p) = p := by
  refine frame_ext fun t => ?_
  obtain ht | ⟨e, he, rfl⟩ := mem_unusedPositions_or_dst t
  · rw [frameBit_wire_unused _ ht, (unusedClear_iff p).mp hp t ht]
  · rw [frameBit_wire_dst _ he, inputBit_readBack_src p he]

/-- The frames of WIRE are those whose unused positions are 0. -/
theorem exists_wire_eq_iff (p : Frame) : (∃ d, wire d = p) ↔ p.unusedClear = true := by
  constructor
  · rintro ⟨d, rfl⟩
    exact unusedClear_wire d
  · exact fun hp => ⟨readBack p, wire_readBack hp⟩

/-- The frames of ENCODE are those whose unused positions are 1. -/
theorem exists_encodeFrame_eq_iff (w : Frame) : (∃ d, encodeFrame d = w) ↔ w.unusedSet = true := by
  have complement (d : DigitSet) : encodeFrame d = w ↔ wire d = invertFrame w := by
    rw [encodeFrame, ← invertFrame_injective.eq_iff, invertFrame_invertFrame]
  rw [exists_congr complement, exists_wire_eq_iff, ← unusedSet_invertFrame, invertFrame_invertFrame]

/-- A call holds frames of DigitSets exactly when the unused positions of what it holds have their constants. -/
theorem framesFromDigits_iff (s : State) : s.FramesFromDigits ↔ s.FramesLegal := by
  simp only [State.FramesFromDigits, State.FramesLegal, eq_comm (b := wire _), eq_comm (b := encodeFrame _),
    exists_wire_eq_iff, exists_encodeFrame_eq_iff]

/-- Settles O53: the frames of DigitSets are the legal ones, and these every row, step and presentation keeps. -/
theorem framesStayFramesOfDigits : Obligations.FramesStayFramesOfDigits := by
  unfold Obligations.FramesStayFramesOfDigits
  simp only [framesFromDigits_iff]
  exact framesStayLegal

/-- Settles O27: WIRE shows the connected bits, which read back, and each frame with its unused positions 0. -/
theorem wireIsInvertibleOnConnectedBits : Obligations.WireIsInvertibleOnConnectedBits := by
  have read_back (d : DigitSet) (hd : inRange d = true) : readBack (wire d) = d := by
    rw [readBack_wire, connectedPart_of_inRange hd]
  refine ⟨wire_eq_wire_iff, fun d e hd he h => ?_, read_back, fun p => ?_, card_wire⟩
  · rw [← read_back d hd, h, read_back e he]
  · rw [exists_wire_eq_iff]
    simp [Frame.unusedClear, and_assoc]

/-! ### The per-digit rules in bytes (R56 to R61) -/

/-- One line of a per-digit rule in R62's form: OR in `b(d & mask)` at the line's position. -/
theorem wireBit_eq_putByte (d : Digit) (n : DigitBit) (i : FrameByte) (k : Fin 8) (p : Frame) :
    wireBit d n i k p = putByte p i (frameByte p i ||| oneIf (d &&& bitMask n) <<< k.val) := by
  by_cases h : d &&& bitMask n = 0#4
  · cases i <;> simp [wireBit, testBit, h, oneIf, putByte, frameByte]
  · simp [wireBit, testBit, h, oneIf, setBit]

theorem wireD1_eq (d : Digit) (p : Frame) : wireD1 d p = ⟨p.b0, p.b1 ||| oneIf (d &&& 4) <<< 6,
    p.b2 ||| oneIf (d &&& 1) <<< 5 ||| oneIf (d &&& 2) <<< 6 ||| oneIf (d &&& 8) <<< 1⟩ := by
  simp only [wireD1, wireBit_eq_putByte]
  rfl

theorem wireD2_eq (d : Digit) (p : Frame) : wireD2 d p = ⟨p.b0,
    p.b1 ||| oneIf (d &&& 2) <<< 7 ||| oneIf (d &&& 4) <<< 5, p.b2 ||| oneIf (d &&& 1) <<< 2⟩ := by
  simp only [wireD2, wireBit_eq_putByte]
  rfl

theorem wireD3_eq (d : Digit) (p : Frame) : wireD3 d p = ⟨
    p.b0 ||| oneIf (d &&& 2) <<< 4 ||| oneIf (d &&& 4) <<< 5 ||| oneIf (d &&& 8) <<< 6, p.b1,
    p.b2 ||| oneIf (d &&& 1) <<< 4⟩ := by
  simp only [wireD3, wireBit_eq_putByte]
  rfl

theorem wireD4_eq (d : Digit) (p : Frame) : wireD4 d p = ⟨
    p.b0 ||| oneIf (d &&& 1) <<< 2 ||| oneIf (d &&& 2) <<< 1 ||| oneIf (d &&& 4) <<< 3, p.b1, p.b2⟩ := by
  simp only [wireD4, wireBit_eq_putByte]
  rfl

theorem wireD5_eq (d : Digit) (p : Frame) : wireD5 d p = ⟨p.b0 ||| oneIf (d &&& 8) <<< 7,
    p.b1 ||| oneIf (d &&& 2) <<< 2 ||| oneIf (d &&& 4) <<< 1, p.b2 ||| oneIf (d &&& 1) <<< 3⟩ := by
  simp only [wireD5, wireBit_eq_putByte]
  rfl

theorem wireD6_eq (d : Digit) (p : Frame) : wireD6 d p = ⟨p.b0,
    p.b1 ||| oneIf (d &&& 1) <<< 3 ||| oneIf (d &&& 2) <<< 4, p.b2⟩ := by
  simp only [wireD6, wireBit_eq_putByte]
  rfl

/-- A worked example needs the two frames only: `P`, `W` and what ENCODE returns are they in every state. -/
theorem encodeGives_of_wire_eq {d : DigitSet} {p w : Frame} (hp : wire d = p) (hw : invertFrame p = w) :
    EncodeGives d p w := by
  obtain rfl := hp
  obtain rfl := hw
  exact fun s => ⟨present_p s d, present_w s d, _, exec_eq_next _ s, returned_returned _ _⟩

/-- Settles O10: the bytes of R56, its sixteen values, and its example. -/
theorem wireD1SetsItsFourPositions : Obligations.WireD1SetsItsFourPositions := by
  have listed : ∀ d : Digit, d1Contributions[d.toNat]? = some (wire ⟨d, 0, 0, 0, 0, 0⟩) := by decide
  exact ⟨fun d s => ⟨_, exec_eq_next _ s, wireD1_eq d s.buffer⟩, fun d s => ⟨_, exec_eq_next _ s, listed d⟩,
    encodeGives_of_wire_eq (by decide) (by decide)⟩

/-- Settles O11: the bytes of R57, its eight values twice, and its example. -/
theorem wireD2SetsItsThreePositions : Obligations.WireD2SetsItsThreePositions := by
  have listed : ∀ d : Digit, d2Contributions[d.toNat % 8]? = some (wire ⟨0, d, 0, 0, 0, 0⟩) := by decide
  exact ⟨fun d s => ⟨_, exec_eq_next _ s, wireD2_eq d s.buffer⟩, fun d s => ⟨_, exec_eq_next _ s, listed d⟩,
    encodeGives_of_wire_eq (by decide) (by decide)⟩

/-- Settles O12: the bytes of R58, its sixteen values, and its example. -/
theorem wireD3SetsItsFourPositions : Obligations.WireD3SetsItsFourPositions := by
  have listed : ∀ d : Digit, d3Contributions[d.toNat]? = some (wire ⟨0, 0, d, 0, 0, 0⟩) := by decide
  exact ⟨fun d s => ⟨_, exec_eq_next _ s, wireD3_eq d s.buffer⟩, fun d s => ⟨_, exec_eq_next _ s, listed d⟩,
    encodeGives_of_wire_eq (by decide) (by decide)⟩

/-- Settles O13: the bytes of R59, its eight values twice, and its example. -/
theorem wireD4SetsItsThreePositions : Obligations.WireD4SetsItsThreePositions := by
  have listed : ∀ d : Digit, d4Contributions[d.toNat % 8]? = some (wire ⟨0, 0, 0, d, 0, 0⟩) := by decide
  exact ⟨fun d s => ⟨_, exec_eq_next _ s, wireD4_eq d s.buffer⟩, fun d s => ⟨_, exec_eq_next _ s, listed d⟩,
    encodeGives_of_wire_eq (by decide) (by decide)⟩

/-- Settles O14: the bytes of R60, its sixteen values, and its example. -/
theorem wireD5SetsItsFourPositions : Obligations.WireD5SetsItsFourPositions := by
  have listed : ∀ d : Digit, d5Contributions[d.toNat]? = some (wire ⟨0, 0, 0, 0, d, 0⟩) := by decide
  exact ⟨fun d s => ⟨_, exec_eq_next _ s, wireD5_eq d s.buffer⟩, fun d s => ⟨_, exec_eq_next _ s, listed d⟩,
    encodeGives_of_wire_eq (by decide) (by decide)⟩

/-- Settles O15: the bytes of R61, its four values repeated, its two bits in place, and its example. -/
theorem wireD6SetsItsTwoPositions : Obligations.WireD6SetsItsTwoPositions := by
  have listed : ∀ d : Digit, d6Contributions[d.toNat % 4]? = some (wire ⟨0, 0, 0, 0, 0, d⟩) ∧
      (wire ⟨0, 0, 0, 0, 0, d⟩).b1.extractLsb' 3 2 = d.extractLsb' 0 2 := by decide
  exact ⟨fun d s => ⟨_, exec_eq_next _ s, wireD6_eq d s.buffer⟩, fun d s => ⟨_, exec_eq_next _ s, listed d⟩,
    encodeGives_of_wire_eq (by decide) (by decide)⟩

/-! ### The six rules, in any order (R55, R62, R63) -/

/-- The digits in the manual's order. -/
def digitNames : List DigitName := [.d1, .d2, .d3, .d4, .d5, .d6]

theorem mem_digitNames (j : DigitName) : j ∈ digitNames := by
  cases j <;> decide

/-- One digit's part of WIRE: its contribution ORed into a frame. -/
def orContribution (d : DigitSet) (p : Frame) (j : DigitName) : Frame := orFrame p (contribution j (digitOf d j))

/-- ORing in contributions sets the bits of each and no other. -/
theorem frameBit_foldl_orContribution (d : DigitSet) (t : FramePos) (order : List DigitName) (p : Frame) :
    frameBit (order.foldl (orContribution d) p) t = true ↔
      frameBit p t = true ∨ ∃ j ∈ order, frameBit (contribution j (digitOf d j)) t = true := by
  induction order generalizing p with
  | nil => simp
  | cons j js ih =>
    rw [List.foldl_cons, ih, orContribution, frameBit_orFrame]
    simp [or_assoc]

/-- WIRE is the OR of the six contributions. -/
theorem wire_eq_foldl_orContribution (d : DigitSet) : wire d = digitNames.foldl (orContribution d) zeroFrame := by
  refine frame_ext fun t => ?_
  simp only [wire, digitNames, List.foldl_cons, List.foldl_nil, orContribution, contribution, digitOf,
    frameBit_orFrame, frameBit_zeroFrame, frameBit_wireD1, frameBit_wireD2, frameBit_wireD3, frameBit_wireD4,
    frameBit_wireD5, frameBit_wireD6, Bool.false_or, Bool.or_assoc]

/-- A bit of `P` is 1 exactly when the rule of some digit sets it (R55). -/
theorem frameBit_wire_iff_contribution (d : DigitSet) (t : FramePos) :
    frameBit (wire d) t = true ↔ ∃ j, frameBit (contribution j (digitOf d j)) t = true := by
  rw [wire_eq_foldl_orContribution, frameBit_foldl_orContribution]
  simp [mem_digitNames]

/-- The contributions of all six digits give WIRE in every order. -/
theorem foldl_orContribution_of_perm (d : DigitSet) {order : List DigitName} (h : order.Perm digitNames) :
    order.foldl (orContribution d) zeroFrame = wire d := by
  refine frame_ext fun t => ?_
  rw [Bool.eq_iff_iff, frameBit_foldl_orContribution, frameBit_wire_iff_contribution]
  simp [h.mem_iff, mem_digitNames]

theorem callAfter_digitRow (j : DigitName) (d : Digit) (s : State) :
    callAfter (digitRow j d) s = .wiring (orFrame s.buffer (contribution j d)) := by
  obtain ⟨p, hp⟩ : ∃ p, callAfter (digitRow j d) s = .wiring p := by cases j <;> exact ⟨_, rfl⟩
  rw [← buffer_digitRow, hp, buffer_wiring]

theorem execSeq_cons (i : Instr) (is : List Instr) (s : State) :
    execSeq (i :: is) s = execSeq is (s.withCall (callAfter i s)) := by
  rw [execSeq, exec_eq_next]

/-- Operations run one after another pass on the state that the first of them left. -/
theorem execSeq_append {is js : List Instr} {s t : State} (h : execSeq is s = .next t) :
    execSeq (is ++ js) s = execSeq js t := by
  induction is generalizing s with
  | nil =>
    obtain rfl := Host.Outcome.next.inj h
    rfl
  | cons i is ih =>
    rw [execSeq_cons] at h
    rw [List.cons_append, execSeq_cons, ih h]

/-- Per-digit rows, one at least, OR their contributions into the buffer they start from. -/
theorem execSeq_digitRows (d : DigitSet) {order : List DigitName} (hne : order ≠ []) (s : State) :
    execSeq (order.map fun j => digitRow j (digitOf d j)) s =
      .next (s.withCall (.wiring (order.foldl (orContribution d) s.buffer))) := by
  induction order generalizing s with
  | nil => exact absurd rfl hne
  | cons j js ih =>
    rw [List.map_cons, execSeq_cons, callAfter_digitRow]
    cases js with
    | nil => rfl
    | cons k ks =>
      rw [ih (List.cons_ne_nil k ks)]
      rfl

/-- The six rows in any order, from an all-zero buffer, are the row WIRE. -/
theorem execSeq_digitRows_of_perm (d : DigitSet) {s : State} {order : List DigitName} (h : order.Perm digitNames)
    (hs : s.buffer = zeroFrame) :
    execSeq (order.map fun j => digitRow j (digitOf d j)) s = .next (s.withCall (.wiring (wire d))) := by
  have nonempty : order ≠ [] := List.ne_nil_of_mem (h.mem_iff.mpr (mem_digitNames .d1))
  rw [execSeq_digitRows d nonempty, hs, foldl_orContribution_of_perm d h]

/-- Settles O19: the rows in that order leave the buffer of WIRE, and INVERT of it ends the call as ENCODE does. -/
theorem stagesInAnyDigitOrderAreEncode : Obligations.StagesInAnyDigitOrderAreEncode := by
  intro d s order h hs
  have rows := execSeq_digitRows_of_perm d h hs
  exact ⟨rows, (execSeq_append rows).trans rfl⟩

/-- Settles O16: the six rules in bytes ORed together, in their order or R62's; the corner cases are evaluated. -/
theorem wireIsTheClosedForm : Obligations.WireIsTheClosedForm := by
  refine ⟨fun d s => ⟨_, exec_eq_next _ s, rfl⟩, fun d => ?_, fun d s hs => ?_, by decide, by decide, by decide⟩
  · simp only [wire, wireD1_eq, wireD2_eq, wireD3_eq, wireD4_eq, wireD5_eq, wireD6_eq, zeroFrame]
    rw [Frame.mk.injEq]
    refine ⟨?_, ?_, ?_⟩ <;> ac_rfl
  · exact ⟨_, execSeq_digitRows_of_perm d (List.Perm.refl digitNames) hs, rfl⟩

/-- Settles O20: a step ends its call, WIRE starts anew, and a per-digit row ORs bits in. -/
theorem bufferStartsZeroAndBitsAreOnlySet : Obligations.BufferStartsZeroAndBitsAreOnlySet := by
  refine ⟨fun s t h => ?_, fun d s t u v hu hv => ?_, fun j d s t b h hb => ?_, frameBit_wire_iff_contribution⟩
  · rw [step_next_cases h, buffer_returned, zeroFrame]
  · rw [exec_next_cases hu, exec_next_cases hv]
    rfl
  · rw [exec_next_cases h, buffer_digitRow, frameBit_orFrame, hb, Bool.true_or]

/-- Settles O24: the loop sets the destinations of its entries whose source is 1, whatever their order. -/
theorem tableLoopInAnyOrderIsWire : Obligations.TableLoopInAnyOrderIsWire := by
  intro d table h
  refine frame_ext fun t => ?_
  rw [Bool.eq_iff_iff, frameBit_wire_iff, wireByEntries, frameBit_foldl_applyEntry]
  simp [h.mem_iff]

/-! ### The positions of each digit (R64) -/

/-- Two frames have no 1 bit in common. -/
def SharesNoBit (p q : Frame) : Prop := ∀ t, frameBit p t = true → frameBit q t = false

theorem andFrame_eq_zeroFrame_iff (p q : Frame) : andFrame p q = zeroFrame ↔ SharesNoBit p q := by
  constructor
  · intro h t ht
    simpa [ht] using congrArg (frameBit · t) h
  · intro h
    refine frame_ext fun t => ?_
    rw [frameBit_andFrame, frameBit_zeroFrame]
    cases ht : frameBit p t
    · rfl
    · exact h t ht

theorem xorFrame_eq_orFrame {p q : Frame} (h : SharesNoBit p q) : xorFrame p q = orFrame p q := by
  refine frame_ext fun t => ?_
  rw [frameBit_xorFrame, frameBit_orFrame]
  cases ht : frameBit p t
  · rw [Bool.false_xor, Bool.false_or]
  · rw [h t ht, Bool.xor_false, Bool.or_false]

/-- No byte carries where no bit is shared. -/
theorem addFrame_eq_orFrame {p q : Frame} (h : SharesNoBit p q) : addFrame p q = orFrame p q := by
  rw [← andFrame_eq_zeroFrame_iff, andFrame, zeroFrame, Frame.mk.injEq] at h
  obtain ⟨h0, h1, h2⟩ := h
  rw [addFrame, orFrame, BitVec.add_eq_or_of_and_eq_zero _ _ h0, BitVec.add_eq_or_of_and_eq_zero _ _ h1,
    BitVec.add_eq_or_of_and_eq_zero _ _ h2]

/-- An operation that is OR wherever no bit is shared folds frames that share none as OR does. -/
theorem foldl_eq_foldl_orFrame {op : Frame → Frame → Frame} (hop : ∀ p q, SharesNoBit p q → op p q = orFrame p q)
    {fs : List Frame} (hfs : fs.Pairwise SharesNoBit) {p : Frame} (hp : ∀ f ∈ fs, SharesNoBit p f) :
    fs.foldl op p = fs.foldl orFrame p := by
  induction fs generalizing p with
  | nil => rfl
  | cons f fs ih =>
    obtain ⟨hf, hfs⟩ := List.pairwise_cons.mp hfs
    obtain ⟨hpf, hp⟩ := List.forall_mem_cons.mp hp
    rw [List.foldl_cons, List.foldl_cons, hop p f hpf, ih hfs]
    intro g hg t ht
    rw [frameBit_orFrame, Bool.or_eq_true] at ht
    exact ht.elim (hp g hg t) (hf g hg t)

/-- The masks of two digits have no position in common. -/
theorem andFrame_digitPositions {j k : DigitName} (h : j ≠ k) :
    andFrame (digitPositions j) (digitPositions k) = zeroFrame := by
  revert h
  cases j <;> cases k <;> decide

/-- Two digits' contributions lie within their masks. -/
theorem sharesNoBit_contribution {j k : DigitName} (h : j ≠ k) (x y : Digit) :
    SharesNoBit (contribution j x) (contribution k y) := by
  have masks := (andFrame_eq_zeroFrame_iff _ _).mp (andFrame_digitPositions h)
  intro t ht
  refine frameBit_contribution_of_not_mem y (masks t ?_)
  by_contra hj
  rw [frameBit_contribution_of_not_mem x (Bool.eq_false_iff.mpr hj)] at ht
  exact Bool.false_ne_true ht

theorem pairwise_contribution (d : DigitSet) :
    (digitNames.map fun j => contribution j (digitOf d j)).Pairwise SharesNoBit := by
  have distinct : digitNames.Nodup := by decide
  exact List.pairwise_map.mpr (distinct.imp fun h => sharesNoBit_contribution h _ _)

/-- Settles O25: contributions fill their masks and keep to them, so XOR and addition of them are OR. -/
theorem digitsNeverShareAPosition : Obligations.DigitsNeverShareAPosition := by
  refine ⟨orFrame_contribution_digitPositions, fun j => by cases j <;> decide, fun j k => andFrame_digitPositions,
    by decide, fun d op hop => ?_⟩
  have op_eq (p q : Frame) (h : SharesNoBit p q) : op p q = orFrame p q := by
    obtain rfl | rfl | rfl := hop
    · rfl
    · exact xorFrame_eq_orFrame h
    · exact addFrame_eq_orFrame h
  have zero_shares (f : Frame) : SharesNoBit zeroFrame f := fun t ht => by simp at ht
  calc (digitNames.map fun j => contribution j (digitOf d j)).foldl op zeroFrame
    _ = (digitNames.map fun j => contribution j (digitOf d j)).foldl orFrame zeroFrame :=
      foldl_eq_foldl_orFrame op_eq (pairwise_contribution d) fun f _ => zero_shares f
    _ = digitNames.foldl (orContribution d) zeroFrame := List.foldl_map
    _ = wire d := (wire_eq_foldl_orContribution d).symm

/-! ### The bitwise laws and the count of 1 bits (R65) -/

/-- A bitwise operation that leaves 0 with 0 at 0 passes through the wiring. -/
theorem wire_unpack_bitwise {f : Bool → Bool → Bool} {onWords : Word24 → Word24 → Word24}
    {onFrames : Frame → Frame → Frame} (hf : f false false = false)
    (hw : ∀ a b i, (onWords a b).getLsbD i = f (a.getLsbD i) (b.getLsbD i))
    (hp : ∀ p q t, frameBit (onFrames p q) t = f (frameBit p t) (frameBit q t)) (a b : Word24) :
    wire (unpack (onWords a b)) = onFrames (wire (unpack a)) (wire (unpack b)) := by
  refine frame_ext fun t => ?_
  rw [hp]
  obtain ht | ⟨e, he, rfl⟩ := mem_unusedPositions_or_dst t
  · simp only [frameBit_wire_unused _ ht, hf]
  · simp only [frameBit_wire_dst _ he, inputBit_unpack, hw]

theorem onesBelow_eq_sum (w : Word24) (n : Nat) :
    onesBelow w n = ((List.range n).map fun i => (w.getLsbD i).toNat).sum := by
  induction n with
  | zero => rfl
  | succ n ih => rw [onesBelow, ih, List.sum_range_succ, Nat.add_comm]

/-- The 1 bits of a word can be counted at some of its indices, in any order, when every other bit is 0. -/
theorem onesCount_eq_sum_of_perm {w : Word24} {counted others : List Nat}
    (h : (counted ++ others).Perm (List.range 24)) (hothers : ∀ i ∈ others, w.getLsbD i = false) :
    onesCount w = (counted.map fun i => (w.getLsbD i).toNat).sum := by
  have others_sum : (others.map fun i => (w.getLsbD i).toNat).sum = 0 := by
    refine List.sum_eq_zero fun x hx => ?_
    obtain ⟨i, hi, rfl⟩ := List.mem_map.mp hx
    rw [hothers i hi, Bool.toNat_false]
  rw [onesCount, onesBelow_eq_sum, ← (h.map _).sum_eq, List.map_append, List.sum_append, others_sum, Nat.add_zero]

/-- The mask `0x3F7F7F` keeps the sources of R47's pairs. -/
theorem getLsbD_and_mask_of_mem {s : Nat} (w : Word24) (hs : s ∈ flatWiring.map Prod.fst) :
    (w &&& 0x3F7F7F).getLsbD s = w.getLsbD s := by
  have mask : ∀ s ∈ flatWiring.map Prod.fst, (0x3F7F7F : Word24).getLsbD s = true := by decide
  rw [BitVec.getLsbD_and, mask s hs, Bool.and_true]

/-- The mask `0x3F7F7F` clears the four unconnected operand bits. -/
theorem getLsbD_and_mask_unconnected {s : Nat} (w : Word24) (hs : s ∈ [7, 15, 22, 23]) :
    (w &&& 0x3F7F7F).getLsbD s = false := by
  have mask : ∀ s ∈ [7, 15, 22, 23], (0x3F7F7F : Word24).getLsbD s = false := by decide
  rw [BitVec.getLsbD_and, mask s hs, Bool.and_false]

/-- WIRE moves the connected 1 bits, one to one: both sides count them along R47's pairs. -/
theorem onesCount_flat_wire (w : Word24) : onesCount (wire (unpack w)).flat = onesCount (w &&& 0x3F7F7F) := by
  have destinations : (flatWiring.map Prod.snd ++ [0, 8, 16, 23]).Perm (List.range 24) := by decide
  have sources : (flatWiring.map Prod.fst ++ [7, 15, 22, 23]).Perm (List.range 24) := by decide
  have unused : ∀ t ∈ [0, 8, 16, 23], t ∉ flatWiring.map Prod.snd := by decide
  rw [onesCount_eq_sum_of_perm destinations fun t ht => getLsbD_flat_wire_of_not_mem w (unused t ht),
    onesCount_eq_sum_of_perm sources fun s hs => getLsbD_and_mask_unconnected w hs, List.map_map, List.map_map]
  refine congrArg List.sum (List.map_congr_left fun ⟨s, t⟩ h => congrArg Bool.toNat ?_)
  exact (getLsbD_flat_wire w h).trans (getLsbD_and_mask_of_mem w (List.mem_map_of_mem h)).symm

/-- Settles O26: each law holds bit by bit, and the wiring is one to one on the connected bits. -/
theorem wireIsABitwiseHomomorphism : Obligations.WireIsABitwiseHomomorphism := by
  refine ⟨fun a b => ⟨?_, ?_, ?_⟩, by decide, onesCount_flat_wire⟩
  · exact wire_unpack_bitwise rfl (fun _ _ _ => BitVec.getLsbD_or) frameBit_orFrame a b
  · exact wire_unpack_bitwise rfl (fun _ _ _ => BitVec.getLsbD_and) frameBit_andFrame a b
  · exact wire_unpack_bitwise rfl (fun _ _ _ => BitVec.getLsbD_xor) frameBit_xorFrame a b

end Sys2Proof.Proofs

/-! The family of 41_invert_encode.md: the complement in its equivalent forms, ENCODE in bytes and its laws on operand
words, what a run of evaluations owes to each DigitSet, and the frames of a day. -/

namespace Sys2Proof.Proofs

open Sys2Proof.Machine

/-! ### Stage INVERT (R67) -/

theorem invertFrame_eq_xor (p : Frame) : invertFrame p = ⟨p.b0 ^^^ 0xFF, p.b1 ^^^ 0xFF, p.b2 ^^^ 0xFF⟩ := by
  rw [invertFrame, Frame.mk.injEq]
  exact ⟨BitVec.xor_allOnes.symm, BitVec.xor_allOnes.symm, BitVec.xor_allOnes.symm⟩

theorem frameByte_invertFrame (p : Frame) (i : FrameByte) : frameByte (invertFrame p) i = ~~~frameByte p i := by
  cases i <;> rfl

/-- A flat word is the 24 bits that stand at the flat indices of the frame positions (R46). -/
theorem word_ext {v w : Word24} (h : ∀ t, v.getLsbD (frameIndex t) = w.getLsbD (frameIndex t)) : v = w := by
  refine BitVec.eq_of_getLsbD_eq fun i hi => ?_
  obtain ⟨t, rfl⟩ := exists_frameIndex_eq hi
  exact h t

theorem frameIndex_lt (t : FramePos) : frameIndex t < 24 := by
  have byte_lt := byteIndex_lt t.byte
  have bit_lt := t.bit.isLt
  unfold frameIndex
  omega

theorem flat_invertFrame (p : Frame) : (invertFrame p).flat = ~~~p.flat := by
  refine word_ext fun t => ?_
  rw [BitVec.getLsbD_not, getLsbD_flat, getLsbD_flat, frameBit_invertFrame, decide_eq_true (frameIndex_lt t),
    Bool.true_and]

theorem flat_xorFrame (p q : Frame) : (xorFrame p q).flat = p.flat ^^^ q.flat := by
  refine word_ext fun t => ?_
  rw [BitVec.getLsbD_xor, getLsbD_flat, getLsbD_flat, getLsbD_flat, frameBit_xorFrame]

/-- Bit 0 of every byte is an unused position (R49). -/
theorem bit0_mem_unusedPositions (i : FrameByte) : (⟨i, 0⟩ : FramePos) ∈ unusedPositions := by
  cases i <;> decide

/-- Bit 0 of an inverted byte is 1 where the unused positions were 0. -/
theorem frameByte_invertFrame_ne_zero {p : Frame} (hp : p.unusedClear = true) (i : FrameByte) :
    frameByte (invertFrame p) i ≠ 0x00 := by
  intro zero
  have bit0 : frameBit (invertFrame p) ⟨i, 0⟩ = true := by
    rw [frameBit_invertFrame, (unusedClear_iff p).mp hp _ (bit0_mem_unusedPositions i), Bool.not_false]
  simp [frameBit, zero] at bit0

/-- Settles O17: the complement is taken byte by byte and bit by bit, and bit 0 of each byte is an unused position. -/
theorem invertComplementsAllThreeBytes : Obligations.InvertComplementsAllThreeBytes := by
  refine ⟨fun p s => ⟨_, exec_eq_next _ s, rfl⟩, invertFrame_eq_xor, fun p i => ?_, fun p => ?_,
    fun p i hp => frameByte_invertFrame_ne_zero hp i, by decide, by decide, by decide⟩
  · rw [frameByte_invertFrame, BitVec.toNat_not]
  · rw [flat_invertFrame]
    exact BitVec.xor_allOnes.symm

/-! ### The operation ENCODE (R68 to R70) -/

/-- Settles O18: the closed form of WIRE, complemented; running the stages, or the row, only ends the call with it. -/
theorem encodeIsTheClosedForm : Obligations.EncodeIsTheClosedForm := by
  obtain ⟨-, wire_closed, -, -, -, wire_example⟩ := wireIsTheClosedForm
  refine ⟨fun d s => ⟨_, exec_eq_next _ s, rfl, ?_⟩, fun d s => ⟨_, rfl, rfl⟩, fun d s => exec_eq_next _ s,
    by decide, by decide, encodeGives_of_wire_eq wire_example (by decide)⟩
  rw [present_w, encodeFrame, wire_closed, invertFrame, Frame.mk.injEq]
  exact ⟨BitVec.allOnes_xor.symm, BitVec.allOnes_xor.symm, BitVec.allOnes_xor.symm⟩

/-- Settles O39: ENCODE reads no state and hands the call its frame, and a run's frames are those of its DigitSets. -/
theorem encodeForgetsWhatWasEvaluatedBefore : Obligations.EncodeForgetsWhatWasEvaluatedBefore := by
  refine ⟨fun d s t u v hu hv => ?_, fun d s before => ?_⟩
  · rw [exec_next_cases hu, exec_next_cases hv]
    exact ⟨rfl, rfl, withCall_ports _ _, withCall_p _ _, withCall_w _ _⟩
  · rw [evaluateAll_eq_map, List.map_append, List.drop_left' (List.length_map _)]
    rfl

/-- Settles O40: no row and no step has another answer than a next state, and a run has a frame for each DigitSet. -/
theorem everyEvaluationCompletes : Obligations.EveryEvaluationCompletes := by
  refine ⟨fun i s => ⟨_, exec_eq_next i s⟩, fun s => ⟨_, step_eq_next s⟩, fun ds s => ?_⟩
  rw [evaluateAll_eq_map, List.length_map]

/-! ### Reading a WireFrame back (R72) -/

theorem readBack_encodeFrame_of_inRange {d : DigitSet} (hd : inRange d = true) :
    readBack (invertFrame (encodeFrame d)) = d := by
  rw [readBack_invertFrame_encodeFrame, connectedPart_of_inRange hd]

/-- In range a WireFrame is the frame of one DigitSet only. -/
theorem eq_of_encodeFrame_eq {d e : DigitSet} (hd : inRange d = true) (he : inRange e = true)
    (h : encodeFrame d = encodeFrame e) : d = e := by
  rw [← readBack_encodeFrame_of_inRange hd, h, readBack_encodeFrame_of_inRange he]

/-- d6 stands in byte1 in order and adjacent, so it is read with a shift and a mask (R61, R72). -/
theorem toNat_readBack_d6 (p : Frame) : (readBack p).d6.toNat = ((p.b1 >>> 3) &&& 3).toNat := by
  have bits : ∀ b : Byte, (digitOfBits (b.getLsbD 3) (b.getLsbD 4) false false).toNat = ((b >>> 3) &&& 3).toNat := by
    decide
  exact bits p.b1

/-- Settles O36: the frame shows the connected bits, and in range there are no others. -/
theorem encodeIsInjectiveInRange : Obligations.EncodeIsInjectiveInRange := by
  refine ⟨encodeFrame_eq_encodeFrame_iff, fun d e => eq_of_encodeFrame_eq, fun d hd => ?_⟩
  have read_back := readBack_encodeFrame_of_inRange hd
  have d6 := toNat_readBack_d6 (invertFrame (encodeFrame d))
  rw [read_back] at d6
  exact ⟨read_back, d6⟩

/-! ### The complement law (R74) -/

theorem invertFrame_orFrame (p q : Frame) : invertFrame (orFrame p q) = andFrame (invertFrame p) (invertFrame q) :=
  frame_ext fun t => by simp

theorem invertFrame_andFrame (p q : Frame) : invertFrame (andFrame p q) = orFrame (invertFrame p) (invertFrame q) :=
  frame_ext fun t => by simp

theorem invertFrame_xorFrame (p q : Frame) : invertFrame (xorFrame p q) = xorFrame (invertFrame p) q :=
  frame_ext fun t => by simp

theorem xorFrame_invertFrame_invertFrame (p q : Frame) : xorFrame (invertFrame p) (invertFrame q) = xorFrame p q :=
  frame_ext fun t => by simp

theorem flat_encodeFrame (d : DigitSet) : (encodeFrame d).flat = ~~~(wire d).flat := flat_invertFrame _

/-- Of the bits of a word those that are 1 and those that are 0 are all of them. -/
theorem onesBelow_not_add (w : Word24) {n : Nat} (hn : n ≤ 24) : onesBelow (~~~w) n + onesBelow w n = n := by
  induction n with
  | zero => rfl
  | succ n ih =>
    have below := ih (by omega)
    have inside : n < 24 := hn
    have bit : ((~~~w).getLsbD n).toNat + (w.getLsbD n).toNat = 1 := by
      rw [BitVec.getLsbD_not]
      cases w.getLsbD n <;> simp [inside]
    simp only [onesBelow]
    omega

theorem onesCount_not (w : Word24) : onesCount (~~~w) = 24 - onesCount w :=
  Nat.eq_sub_of_add_eq (onesBelow_not_add w (Nat.le_refl 24))

/-- A single connected input bit drives the one frame bit R47 pairs it with. -/
theorem flat_wire_one_bit {s t : Nat} (h : (s, t) ∈ flatWiring) :
    (wire (unpack ((1 : Word24) <<< s))).flat = (1 : Word24) <<< t := by
  have pairs : ∀ x ∈ flatWiring, (wire (unpack ((1 : Word24) <<< x.1))).flat = (1 : Word24) <<< x.2 := by decide
  exact pairs (s, t) h

/-- Settles O37: WIRE's bitwise laws under the complement, whose 0 bits are the 1 bits of WIRE. -/
theorem encodeObeysTheComplementLaw : Obligations.EncodeObeysTheComplementLaw := by
  obtain ⟨bitwise, -, ones⟩ := wireIsABitwiseHomomorphism
  refine ⟨fun a b => ?_, fun w => ?_, fun w s t h => ⟨?_, ?_⟩⟩
  · obtain ⟨or_law, and_law, xor_law⟩ := bitwise a b
    simp only [encodeFrame, or_law, and_law, xor_law, invertFrame_orFrame, invertFrame_andFrame,
      xorFrame_invertFrame_invertFrame, and_self]
  · rw [flat_encodeFrame, BitVec.not_not, onesCount_not, ones]
    exact ⟨BitVec.allOnes_xor.symm, rfl, rfl⟩
  · obtain ⟨-, -, xor_law⟩ := bitwise w ((1 : Word24) <<< s)
    rw [encodeFrame, xor_law, invertFrame_xorFrame, flat_xorFrame, flat_wire_one_bit h, encodeFrame]
  · obtain ⟨e, he, rfl, rfl⟩ := (mem_flatWiring_iff s t).mp h
    rw [getLsbD_flat, frameBit_encodeFrame_dst _ he, inputBit_unpack]

/-! ### The frames of a day (R76) -/

/-- The digits of a time of day say which time it is. -/
theorem timeDigits_injective {hh mm ss h' m' s' : Nat} (h : timeOfDay hh mm ss = true)
    (h₁ : timeOfDay h' m' s' = true) (heq : timeDigits hh mm ss = timeDigits h' m' s') : hh = h' ∧ mm = m' ∧ ss = s' := by
  have digits := toNat_timeDigits h
  rw [heq] at digits
  have digits' := toNat_timeDigits h₁
  omega

/-- Three times of day whose digits between them have every connected bit at 1. -/
theorem orFrame_wire_three_times :
    orFrame (wire (timeDigits 17 37 37)) (orFrame (wire (timeDigits 8 48 48)) (wire (timeDigits 20 0 0))) =
      Config.usedMask := by decide

/-- The union of the day's pre-inversion frames is `FE FE 7E`. -/
theorem exists_time_frameBit_wire_iff (t : FramePos) :
    (∃ hh mm ss, timeOfDay hh mm ss = true ∧ frameBit (wire (timeDigits hh mm ss)) t = true) ↔
      frameBit Config.usedMask t = true := by
  constructor
  · rintro ⟨hh, mm, ss, -, h⟩
    obtain ⟨e, he, -, rfl⟩ := (frameBit_wire_iff _ _).mp h
    exact (frameBit_usedMask_iff _).mpr ⟨e, he, rfl⟩
  · intro h
    rw [← orFrame_wire_three_times, frameBit_orFrame, frameBit_orFrame, Bool.or_eq_true, Bool.or_eq_true] at h
    obtain h | h | h := h
    · exact ⟨17, 37, 37, rfl, h⟩
    · exact ⟨8, 48, 48, rfl, h⟩
    · exact ⟨20, 0, 0, rfl, h⟩

/-- At midnight every digit is 0 and so is every bit of `P`. -/
theorem frameBit_encodeFrame_midnight (t : FramePos) : frameBit (encodeFrame (timeDigits 0 0 0)) t = true := by
  have midnight : timeDigits 0 0 0 = ⟨0, 0, 0, 0, 0, 0⟩ := rfl
  rw [midnight, encodeFrame, frameBit_invertFrame, wire_zero, frameBit_zeroFrame, Bool.not_false]

/-- Settles O45: the digits are in range and say the time; midnight's frame has every bit at 1, and three other times
have every used bit at 0 between them. -/
theorem everyTimeOfDayHasItsOwnFrame : Obligations.EveryTimeOfDayHasItsOwnFrame := by
  refine ⟨fun hh mm ss => inRange_timeDigits, fun hh mm ss h' m' s' h h₁ heq => ?_,
    fun t ht => ⟨?_, 0, 0, 0, rfl, frameBit_encodeFrame_midnight t⟩, exists_time_frameBit_wire_iff⟩
  · obtain digits | frames := heq
    · exact timeDigits_injective h h₁ digits
    · exact timeDigits_injective h h₁ (eq_of_encodeFrame_eq (inRange_timeDigits h) (inRange_timeDigits h₁) frames)
  · have used := (frameBit_usedMask_iff t).mpr (List.mem_map.mp ht)
    obtain ⟨hh, mm, ss, h, one⟩ := (exists_time_frameBit_wire_iff t).mpr used
    exact ⟨hh, mm, ss, h, by rw [encodeFrame, frameBit_invertFrame, one, Bool.not_true]⟩

end Sys2Proof.Proofs

/-! The family of 60_exceptions.md: what the clock hands to the block. -/

namespace Sys2Proof.Proofs

open Sys2Proof.Machine

/-! ### The digits of a time of day (R54, R85) -/

/-- The caller's invariant of R42 in numbers: its last bound says that an hour that starts with 2 is at most 23. -/
theorem timeDigitsInvariant_iff (d : DigitSet) :
    timeDigitsInvariant d = true ↔ d.d1.toNat ≤ 9 ∧ d.d2.toNat ≤ 5 ∧ d.d3.toNat ≤ 9 ∧ d.d4.toNat ≤ 5 ∧
      d.d5.toNat ≤ 9 ∧ d.d6.toNat ≤ 2 ∧ (d.d6.toNat = 2 → d.d5.toNat ≤ 3) := by
  have d6_eq_two : d.d6 = 2 ↔ d.d6.toNat = 2 := BitVec.toNat_inj.symm
  simp only [timeDigitsInvariant, Bool.and_eq_true, Bool.or_eq_true, decide_eq_true_eq, bne_iff_ne, ne_eq, d6_eq_two,
    and_assoc, imp_iff_not_or]

theorem timeDigitsInvariant_timeDigits {hh mm ss : Nat} (h : timeOfDay hh mm ss = true) :
    timeDigitsInvariant (timeDigits hh mm ss) = true := by
  obtain ⟨d1, d2, d3, d4, d5, d6⟩ := toNat_timeDigits h
  simp only [timeOfDay, Bool.and_eq_true, decide_eq_true_eq] at h
  rw [timeDigitsInvariant_iff, d1, d2, d3, d4, d5, d6]
  omega

/-- Settles O44: the digits keep their values at the ports and so meet the invariant; what TIME and BLANK stand for is
an ENCODE of the digits named, for every number. -/
theorem timeDigitsAreTensAndUnits : Obligations.TimeDigitsAreTensAndUnits := by
  refine ⟨fun hh mm ss h => ?_, fun _ _ _ _ => rfl, fun _ _ => rfl⟩
  obtain ⟨d1, d2, d3, d4, d5, d6⟩ := toNat_timeDigits h
  exact ⟨d1, d2, d3, d4, d5, d6, timeDigitsInvariant_timeDigits h⟩

end Sys2Proof.Proofs
